-- ==== Sys2Proof/Word.lean ====
section
/-! DEFINITION. Words, widths and the two channel words of the block (spec/00_scope.md R2, R3; spec/30_encoding.md
R50, R53). -/

namespace Sys2Proof

/-- The two builds of the block (00_scope R2, D1): `w64` is the canonical one, `w32` the documented alternative. -/
inductive Width where
  | w32
  | w64
  deriving DecidableEq, Repr

/-- The word width W in bits (00_scope R2). -/
def Width.bits : Width → Nat
  | .w32 => 32
  | .w64 => 64

/-- CW = 2W + 3, the number of bits of a command word (30_encoding R50). -/
def Width.cmdBits (w : Width) : Nat := 2 * w.bits + 3

/-- RW = 2W + 2, the number of bits of a response word (30_encoding R53). -/
def Width.rspBits (w : Width) : Nat := 2 * w.bits + 2

/-- The carrier of a Word of either build (00_scope R3). A Word of the W = 32 build is one below 2^32, which `fits`
says. DESIGN CHOICE (log 2), safe: every value a build can form meets `fits`. -/
abbrev Word := BitVec 64

/-- `v` is a Word of the build: 0 <= v < 2^W (00_scope R3). -/
def Word.fits (w : Width) (v : Word) : Bool := decide (v.toNat < 2 ^ w.bits)

/-- A raw command word; 131 bits is CW of the widest build (30_encoding R50). -/
abbrev CmdWord := BitVec 131

/-- A raw response word; 130 bits is RW of the widest build (30_encoding R53). -/
abbrev RspWord := BitVec 130

end Sys2Proof
end

