-- ==== Sys2Proof/Config.lean ====
section
/-! DEFINITION. The parameters of a build (spec/00_scope.md R2, R4, R5; spec/92_eei_decisions.md, "Open parameters").
LAT(op) is not here: no rule's result depends on it (70_reset_and_hazards R135; log 8). -/

namespace Sys2Proof

/-- The named parameters of one build, fixed for the life of the block (00_scope R2, R5). -/
structure Config where
  /-- the word width W (R2) -/
  width : Width
  /-- P_MIN, the least valid exponent of a constant (R4) -/
  pMin : Nat
  /-- P_MAX, the greatest valid exponent of a constant (R4) -/
  pMax : Nat
  deriving DecidableEq, Repr

/-- The build of width W with the spec's default exponents P_MIN = 1 and P_MAX = W - 1 (00_scope R5). -/
def Config.ofWidth (w : Width) : Config := { width := w, pMin := 1, pMax := w.bits - 1 }

/-- The default build: W = 64 (00_scope R2, R5). -/
def Config.default : Config := Config.ofWidth .w64

/-- The domain of the parameters: 0 <= P_MIN <= P_MAX <= W (92_eei_decisions, "Open parameters, collected"). -/
def Config.wf (c : Config) : Bool := decide (c.pMin ≤ c.pMax) && decide (c.pMax ≤ c.width.bits)

end Sys2Proof
end

