-- ==== Sys2Proof/Syntax.lean ====
section
/-! DEFINITION. The commands of the block, one constructor per row of spec/opcode_table.json (spec/30_encoding.md R52,
R56, R57, R60). -/

namespace Sys2Proof

/-- A decoded command. Operand fields a command ignores are not part of it (30_encoding R58, R60). -/
inductive Instr where
  /-- OP 0, widening multiply of `a` and `b` (40_widening_multiplier R71) -/
  | wmul (a b : Word)
  /-- OP 1, make a hasher from a seed and a constant M (41_stateful_hasher R80) -/
  | construct (seed m : Word)
  /-- OP 2, absorb one Word (41_stateful_hasher R82) -/
  | absorb (word : Word)
  /-- OP 3, return the accumulator; FINALIZE is another spelling of it (41_stateful_hasher R84, 30_encoding R63) -/
  | current
  /-- OP 4, put a seed back in the accumulator; not the hard reset (41_stateful_hasher R85) -/
  | reset (seed : Word)
  /-- OP 5, hash one Word with the constant M given (42_stateless_hash R100) -/
  | hash (word m : Word)
  /-- OP 6, reserved (30_encoding R57) -/
  | reserved6
  /-- OP 7, reserved (30_encoding R57) -/
  | reserved7
  deriving DecidableEq, Repr

end Sys2Proof
end

