-- ==== Sys2Proof/WellFormed.lean ====
section
/-! DEFINITION. What a build's commands and command words are: operands are Words of the build (spec/00_scope.md R3,
spec/30_encoding.md R52) and a command word has CW bits (R50). -/

namespace Sys2Proof

/-- Every operand of the command is a Word of the build (00_scope R3, 30_encoding R52). -/
def Instr.wf (w : Width) : Instr → Bool
  | .wmul a b => a.fits w && b.fits w
  | .construct seed m => seed.fits w && m.fits w
  | .absorb word => word.fits w
  | .current => true
  | .reset seed => seed.fits w
  | .hash word m => word.fits w && m.fits w
  | .reserved6 => true
  | .reserved7 => true

/-- The word has CW = 2W + 3 bits: every bit above them is 0 (30_encoding R50). -/
def CmdWord.fits (w : Width) (cmd : CmdWord) : Bool := decide (cmd.toNat < 2 ^ w.cmdBits)

/-- The word has RW = 2W + 2 bits: every bit above them is 0 (30_encoding R53). -/
def RspWord.fits (w : Width) (rsp : RspWord) : Bool := decide (rsp.toNat < 2 ^ w.rspBits)

end Sys2Proof
end

