-- ==== Sys2Proof/Machine/Response.lean ====
section
/-! DEFINITION. Responses, the three kinds of error and the response word (spec/30_encoding.md R53 to R55,
spec/60_exceptions.md R110). -/

namespace Sys2Proof.Machine

/-- The status of a response (30_encoding R54). -/
inductive Status where
  | ok
  | invalidConstant
  | noInstance
  | illegalCommand
  deriving DecidableEq, Repr

/-- The three error conditions of the block; there is no other (60_exceptions R110). -/
inductive ErrorKind where
  /-- the constant given does not satisfy ValidM (R112) -/
  | invalidConstant
  /-- the command needs a hasher and VALID = 0 (R113) -/
  | noInstance
  /-- a reserved opcode (R114) -/
  | illegalCommand
  deriving DecidableEq, Repr

/-- The response of one command: status and the two result Words (30_encoding R53). -/
structure Response where
  /-- ST -/
  st : Status
  /-- R1, the second result Word -/
  r1 : Word
  /-- R0, the first result Word -/
  r0 : Word
  deriving DecidableEq, Repr

/-- The status an error is reported with (60_exceptions R110). -/
def ErrorKind.status : ErrorKind → Status
  | .invalidConstant => .invalidConstant
  | .noInstance => .noInstance
  | .illegalCommand => .illegalCommand

/-- The status codes (30_encoding R54). -/
def Status.code : Status → Nat
  | .ok => 0
  | .invalidConstant => 1
  | .noInstance => 2
  | .illegalCommand => 3

/-- The status of a code (30_encoding R54). -/
def Status.ofCode (c : BitVec 2) : Status :=
  match c.toNat with
  | 0 => .ok
  | 1 => .invalidConstant
  | 2 => .noInstance
  | _ => .illegalCommand

/-- rsp = R1 * 2^(W+2) + R0 * 2^2 + ST (30_encoding R53). -/
def Response.encode (w : Width) (r : Response) : RspWord :=
  BitVec.ofNat 130 (r.r1.toNat * 2 ^ (w.bits + 2) + r.r0.toNat * 2 ^ 2 + r.st.code)

/-- The fields ST = rsp[1:0], R0 = rsp[W+1:2], R1 = rsp[2W+1:W+2] of a response word (30_encoding R53), which the host
reads. -/
def Response.ofWord (w : Width) (rsp : RspWord) : Response where
  st := Status.ofCode (rsp.extractLsb' 0 2)
  r1 := (rsp.extractLsb' (w.bits + 2) w.bits).setWidth 64
  r0 := (rsp.extractLsb' 2 w.bits).setWidth 64

/-- Both result Words are Words of the build, and both are 0 when the status is not OK (30_encoding R53, R55). -/
def Response.wf (w : Width) (r : Response) : Bool :=
  r.r1.fits w && r.r0.fits w && (decide (r.st = .ok) || (decide (r.r1 = 0) && decide (r.r0 = 0)))

end Sys2Proof.Machine
end

