-- ==== Sys2Proof/Machine/State.lean ====
section
/-! DEFINITION. The state of the block and its two ports (spec/10_state.md, spec/70_reset_and_hazards.md R130, R131,
R136 to R138), the reasons a step can stop, and the state after hard reset. -/

namespace Sys2Proof.Machine

/-- The hasher the block holds: the registers that exist only while VALID = 1 (10_state R21, R22, R29, R31). -/
structure Hasher where
  /-- ACC, the accumulator (10_state R21) -/
  acc : Word
  /-- MREG, the constant M (10_state R22) -/
  mreg : Word
  deriving DecidableEq, Repr

/-- One thing the host does at the block's ports (70_reset_and_hazards R136, R137). -/
inductive HostEvent where
  /-- it offers a command word at the command port -/
  | command (cmd : CmdWord)
  /-- it takes the oldest response from the response port -/
  | takeResponse
  /-- it asserts hard reset (R130) -/
  | assertReset
  /-- it releases hard reset (R130) -/
  | releaseReset
  /-- it does nothing -/
  | idle
  deriving DecidableEq, Repr

/-- The block, its ports and what the host does to it.

`hasher` is the whole register state: VALID = 1 exactly when it holds a `Hasher`, and ACC and MREG are that hasher's
(10_state R21 to R23, R33). The spec gives ACC and MREG no value while VALID = 0 and says to represent them as absent,
"not as zero" (10_state R31; log 3).

`cfg` is configuration, not state (00_scope R7): it stands here because `exec` and `step` take nothing but the state,
and no step writes it. DESIGN CHOICE (log 1), safe.

`input` and `delivered` are the environment: what the host will do and what it has received. DESIGN CHOICE (log 4),
safe. -/
structure State where
  /-- the parameters of this build (00_scope R5) -/
  cfg : Config
  /-- VALID, ACC and MREG (10_state R33) -/
  hasher : Option Hasher
  /-- the level of the hard-reset input: true while it is asserted (70_reset_and_hazards R130) -/
  inReset : Bool
  /-- the response port: responses produced and not yet taken, oldest first (70_reset_and_hazards R136) -/
  rspPort : List Response
  /-- what the host will do, next thing first; its commands in this order are the order of acceptance (20_memory R42) -/
  input : List HostEvent
  /-- the response words the host has taken, oldest first (70_reset_and_hazards R138) -/
  delivered : List RspWord
  deriving DecidableEq, Repr

/-- There is no fault: no condition stops the block, and every error the spec names is the status of a response
(60_exceptions R110, R111, R118). DEDUCED (log 9), safe. -/
inductive Fault where
  deriving DecidableEq, Repr

/-- Why a step has no meaning. -/
inductive Refusal where
  /-- raised by an arm of `exec` whose instruction has no meaning yet; no arm raises it; safe -/
  | notModelled (mnemonic : String)
  /-- raised by `step` when the host's next offer is not a CW-bit word, which no host of the build can send
  (30_encoding R50, 70_reset_and_hazards R137); safe (log 6) -/
  | notACommandWord
  deriving DecidableEq, Repr

/-- The default build right after hard reset is released (10_state R31, 70_reset_and_hazards R131): VALID = 0, no ACC
and no MREG, both ports empty. -/
def State.reset : State where
  cfg := Config.default
  hasher := none
  inReset := false
  rspPort := []
  input := []
  delivered := []

end Sys2Proof.Machine
end

