-- ==== Sys2Proof/Machine/Ops.lean ====
section
/-! DEFINITION. The shared operations: the widening multiply, answering a command, raising an error, the writes of the
hasher's registers, and hard reset (spec/40_widening_multiplier.md R70, spec/30_encoding.md R53, R55,
spec/60_exceptions.md R111, spec/10_state.md R30, R31). -/

namespace Sys2Proof.Machine

/-- WMul(a, b) = (high, low) with high * 2^W + low = a * b over the integers (40_widening_multiplier R70). -/
def wmul (w : Width) (a b : Word) : Word × Word :=
  let p := a.toNat * b.toNat
  (BitVec.ofNat 64 (p / 2 ^ w.bits), BitVec.ofNat 64 (p % 2 ^ w.bits))

/-- `respond(st, r1, r0)`: put the one response of a command on the response port, behind the earlier ones
(00_scope section 6, 20_memory R43). -/
def State.respond (s : State) (st : Status) (r1 r0 : Word) : State :=
  { s with rspPort := s.rspPort ++ [{ st := st, r1 := r1, r0 := r0 }] }

/-- A command ends with status OK and these results (30_encoding R54, R55). -/
def complete (s : State) (r1 r0 : Word) : Host.Outcome State Fault Refusal :=
  .next (s.respond .ok r1 r0)

/-- `raise E`: taking an exception on this block. No state is written, the one response is (code(E), 0, 0), nothing is
latched and control goes nowhere (60_exceptions R111, R117). There is no return from it: the next command executes
normally (R118). -/
def raise (e : ErrorKind) (s : State) : Host.Outcome State Fault Refusal :=
  .next (s.respond e.status 0 0)

/-- ACC <- seed, MREG <- m, VALID <- 1: a new hasher, of which the old one leaves nothing (41_stateful_hasher R80,
R81). -/
def State.install (s : State) (seed m : Word) : State :=
  { s with hasher := some { acc := seed, mreg := m } }

/-- ACC <- v of the hasher `h` the block holds; MREG and VALID stay (41_stateful_hasher R82, R85). -/
def State.writeAcc (s : State) (h : Hasher) (v : Word) : State :=
  { s with hasher := some { h with acc := v } }

/-- The block as hard reset leaves it: VALID = 0, ACC and MREG absent, responses not yet delivered lost; the parameters
are not affected (10_state R31, 70_reset_and_hazards R130, R131). -/
def State.clear (s : State) : State :=
  { s with hasher := none, rspPort := [] }

end Sys2Proof.Machine
end

