-- ==== Sys2Proof/Machine/Flags.lean ====
section
/-! DEFINITION. The one flag of the block, VALID (spec/10_state.md R23, R25): there are no condition codes. -/

namespace Sys2Proof.Machine

/-- VALID: a hasher exists in the block (10_state R23). -/
def State.valid (s : State) : Bool := s.hasher.isSome

/-- Run `k` on the hasher the block holds; with VALID = 0, NoInstance (60_exceptions R113). -/
def withHasher (s : State) (k : Hasher → Host.Outcome State Fault Refusal) : Host.Outcome State Fault Refusal :=
  match s.hasher with
  | some h => k h
  | none => raise .noInstance s

end Sys2Proof.Machine
end

