-- ==== Sys2Proof/Machine/Operands.lean ====
section
/-! DEFINITION. The check of a constant operand and the value one ABSORB computes (spec/00_scope.md R4,
spec/41_stateful_hasher.md R82, R86). Operands have one form: a whole Word in the command (spec/30_encoding.md R52). -/

namespace Sys2Proof.Machine

/-- ValidM(m): m = 2^p - 1 for some p with P_MIN <= p <= P_MAX (00_scope R4); primality is no part of it. -/
def validM (c : Config) (m : Word) : Bool :=
  (List.range (c.pMax + 1)).any fun p => decide (c.pMin ≤ p) && decide (m.toNat = 2 ^ p - 1)

/-- Run `k` if the constant is valid; otherwise InvalidConstant, before any other effect (60_exceptions R112). -/
def withConstant (s : State) (m : Word) (k : Host.Outcome State Fault Refusal) : Host.Outcome State Fault Refusal :=
  if validM s.cfg m then k else raise .invalidConstant s

/-- Step(acc, M, w): the high half of (acc XOR w) * M; the low half is discarded (41_stateful_hasher R82, R86). -/
def absorbStep (w : Width) (acc m word : Word) : Word := (wmul w (acc ^^^ word) m).1

end Sys2Proof.Machine
end

