-- ==== Sys2Proof/Machine/Multiplier.lean ====
section
/-! DEFINITION. The widening multiplier unit: WMUL (spec/40_widening_multiplier.md). -/

namespace Sys2Proof.Machine

/-- WMUL: R1 = high, R0 = low; no state read or written, no error for any operands (40_widening_multiplier R71). -/
def execWmul (a b : Word) (s : State) : Host.Outcome State Fault Refusal :=
  let p := wmul s.cfg.width a b
  complete s p.1 p.2

end Sys2Proof.Machine
end

