-- ==== Sys2Proof/Machine/Reserved.lean ====
section
/-! DEFINITION. The two reserved opcodes (spec/30_encoding.md R57, spec/60_exceptions.md R114). -/

namespace Sys2Proof.Machine

/-- OP = 6: IllegalCommand, whatever the operands and the state (30_encoding R57). -/
def execReserved6 (s : State) : Host.Outcome State Fault Refusal := raise .illegalCommand s

/-- OP = 7: IllegalCommand, whatever the operands and the state (30_encoding R57). -/
def execReserved7 (s : State) : Host.Outcome State Fault Refusal := raise .illegalCommand s

end Sys2Proof.Machine
end

