-- ==== Sys2Proof/Machine/StatefulHasher.lean ====
section
/-! DEFINITION. The stateful hasher unit: CONSTRUCT, ABSORB, CURRENT, RESET (spec/41_stateful_hasher.md). -/

namespace Sys2Proof.Machine

/-- CONSTRUCT: a valid M makes a new hasher, whether or not one exists (41_stateful_hasher R80, R81). -/
def execConstruct (seed m : Word) (s : State) : Host.Outcome State Fault Refusal :=
  withConstant s m (complete (s.install seed m) 0 0)

/-- ABSORB: ACC <- high half of (ACC XOR word) * MREG (41_stateful_hasher R82). -/
def execAbsorb (word : Word) (s : State) : Host.Outcome State Fault Refusal :=
  withHasher s fun h => complete (s.writeAcc h (absorbStep s.cfg.width h.acc h.mreg word)) 0 0

/-- CURRENT: R0 = ACC, nothing written (41_stateful_hasher R84). -/
def execCurrent (s : State) : Host.Outcome State Fault Refusal :=
  withHasher s fun h => complete s 0 h.acc

/-- RESET: ACC <- seed (41_stateful_hasher R85). -/
def execReset (seed : Word) (s : State) : Host.Outcome State Fault Refusal :=
  withHasher s fun h => complete (s.writeAcc h seed) 0 0

end Sys2Proof.Machine
end

