-- ==== Sys2Proof/Machine/StatelessHash.lean ====
section
/-! DEFINITION. The stateless hash folding unit: HASH (spec/42_stateless_hash.md). -/

namespace Sys2Proof.Machine

/-- HASH: R0 = high XOR low of word * M for a valid M; it never touches the hasher (42_stateless_hash R100, R101). -/
def execHash (word m : Word) (s : State) : Host.Outcome State Fault Refusal :=
  withConstant s m
    (let p := wmul s.cfg.width word m
     complete s 0 (p.1 ^^^ p.2))

end Sys2Proof.Machine
end

