-- ==== Sys2Proof/Machine/Dispatch.lean ====
section
/-! DEFINITION. The dispatch of a decoded command to its meaning, one arm per constructor of Instr. -/

namespace Sys2Proof.Machine

/-- One command, executed as one indivisible transition (20_memory R43). -/
def exec (i : Instr) (s : State) : Host.Outcome State Fault Refusal :=
  match i with
  | .wmul a b => Sys2Proof.Machine.execWmul a b s
  | .construct seed m => Sys2Proof.Machine.execConstruct seed m s
  | .absorb word => Sys2Proof.Machine.execAbsorb word s
  | .current => Sys2Proof.Machine.execCurrent s
  | .reset seed => Sys2Proof.Machine.execReset seed s
  | .hash word m => Sys2Proof.Machine.execHash word m s
  | .reserved6 => Sys2Proof.Machine.execReserved6 s
  | .reserved7 => Sys2Proof.Machine.execReserved7 s

end Sys2Proof.Machine
end

