-- ==== Sys2Proof/Decode.lean ====
section
/-! DEFINITION. The decoder and the encoder of command words (spec/30_encoding.md R51, R52, R56 to R60). Each
constructor's decoding is shown on a word of the spec in Sys2Proof/Tests/Slice0.lean. -/

namespace Sys2Proof

/-- Why a bit pattern is no command of the build. -/
inductive DecodeError where
  /-- a bit above cmd[2W+2] is set, so this is not a CW-bit word (30_encoding R50); raised by `decode`; safe -/
  | notCwBits
  deriving DecidableEq, Repr

/-- OP = cmd[2:0] (30_encoding R51). -/
def fieldOp (cmd : CmdWord) : BitVec 3 := cmd.extractLsb' 0 3

/-- A = cmd[W+2:3] (30_encoding R51). -/
def fieldA (w : Width) (cmd : CmdWord) : Word := (cmd.extractLsb' 3 w.bits).setWidth 64

/-- B = cmd[2W+2:W+3] (30_encoding R51). -/
def fieldB (w : Width) (cmd : CmdWord) : Word := (cmd.extractLsb' (w.bits + 3) w.bits).setWidth 64

/-- The case split of the decoder on the opcode (30_encoding R56, R60); fields a command ignores are dropped (R58). -/
def instrOfFields (op : BitVec 3) (a b : Word) : Instr :=
  match op.toNat with
  | 0 => .wmul a b
  | 1 => .construct a b
  | 2 => .absorb a
  | 3 => .current
  | 4 => .reset a
  | 5 => .hash a b
  | 6 => .reserved6
  | _ => .reserved7

/-- The decoder (30_encoding R60): every CW-bit word decodes, and what is no CW-bit word is rejected by name. -/
def decode (w : Width) (cmd : CmdWord) : Except DecodeError Instr :=
  if cmd.fits w then .ok (instrOfFields (fieldOp cmd) (fieldA w cmd) (fieldB w cmd)) else .error .notCwBits

/-- The opcode of a command (30_encoding R56). -/
def Instr.opcode : Instr → Nat
  | .wmul _ _ => 0
  | .construct _ _ => 1
  | .absorb _ => 2
  | .current => 3
  | .reset _ => 4
  | .hash _ _ => 5
  | .reserved6 => 6
  | .reserved7 => 7

/-- What field A carries (30_encoding R52); 0 where it is ignored (R58). -/
def Instr.operandA : Instr → Word
  | .wmul a _ => a
  | .construct seed _ => seed
  | .absorb word => word
  | .current => 0
  | .reset seed => seed
  | .hash word _ => word
  | .reserved6 => 0
  | .reserved7 => 0

/-- What field B carries (30_encoding R52); 0 where it is ignored (R58). -/
def Instr.operandB : Instr → Word
  | .wmul _ b => b
  | .construct _ m => m
  | .absorb _ => 0
  | .current => 0
  | .reset _ => 0
  | .hash _ m => m
  | .reserved6 => 0
  | .reserved7 => 0

/-- cmd = B * 2^(W+3) + A * 2^3 + OP (30_encoding R51). -/
def packCommand (w : Width) (op : Nat) (a b : Word) : CmdWord :=
  BitVec.ofNat 131 (b.toNat * 2 ^ (w.bits + 3) + a.toNat * 2 ^ 3 + op)

/-- The command word of a command, zero in every ignored field (30_encoding R51, R58, R61). -/
def encode (w : Width) (i : Instr) : CmdWord := packCommand w i.opcode i.operandA i.operandB

/-- The command the decoder of the default build reads from an opcode-table word: `word` gives the low `nbits` bits of
the command word, every bit above them is 0. The block sees no bytes (20_memory R41), so bit i of the number is bit i
of the command word. -/
def decodeTableWord (nbits word : Nat) : Option Instr :=
  if word % 2 ^ nbits < 2 ^ 131 then
    match decode Config.default.width (BitVec.ofNat 131 (word % 2 ^ nbits)) with
    | .ok i => some i
    | .error _ => none
  else none

end Sys2Proof
end

