-- ==== Sys2Proof/Machine/HostPort.lean ====
section
/-! DEFINITION. The command port, the response port and the hard-reset input (spec/70_reset_and_hazards.md R130, R131,
R136, R137). -/

namespace Sys2Proof.Machine

/-- The host's next event is over. -/
def State.dropEvent (s : State) : State := { s with input := s.input.tail }

/-- The command the block accepts in this step, decoded. None when the host offers no command, and none while hard
reset is asserted, when "the block accepts no command" (70_reset_and_hazards R130). -/
def fetch (s : State) : Option (Except DecodeError Instr) :=
  match s.input with
  | .command cmd :: _ => if s.inReset then none else some (decode s.cfg.width cmd)
  | _ => none

/-- The host takes the oldest response, as its response word (70_reset_and_hazards R136, 30_encoding R53); from an
empty port it takes nothing. -/
def State.deliver (s : State) : State :=
  match s.rspPort with
  | [] => s
  | r :: rest => { s with rspPort := rest, delivered := s.delivered ++ [r.encode s.cfg.width] }

/-- Hard reset is asserted: the reset state is forced and undelivered responses are lost (70_reset_and_hazards R130). -/
def State.assertReset (s : State) : State := { s.clear with inReset := true }

/-- Hard reset is released, which leaves the reset state; releasing it while it is not asserted is no event
(70_reset_and_hazards R130). -/
def State.releaseReset (s : State) : State :=
  if s.inReset then { s.clear with inReset := false } else s

/-- The effect of a step in which no command is accepted (70_reset_and_hazards R137). With nothing to do the block idles
with its state held (60_exceptions R122). An offer made while hard reset is asserted lapses. DESIGN CHOICE (log 5). -/
def hostAct (s : State) : State :=
  match s.input with
  | [] => s
  | .command _ :: _ => s.dropEvent
  | .takeResponse :: _ => s.dropEvent.deliver
  | .assertReset :: _ => s.dropEvent.assertReset
  | .releaseReset :: _ => s.dropEvent.releaseReset
  | .idle :: _ => s.dropEvent

/-- `s` about to accept the command word `cmd`: it is the host's next event and hard reset is released. -/
def State.offer (s : State) (cmd : CmdWord) : State :=
  { s with inReset := false, input := .command cmd :: s.input }

end Sys2Proof.Machine
end

