-- ==== Sys2Proof/Machine/Step.lean ====
section
/-! DEFINITION. One step: the host's next event, which is a command accepted and executed or an event of another kind
(spec/20_memory.md R42, R43, spec/70_reset_and_hazards.md R136, R137). -/

namespace Sys2Proof.Machine

/-- One step of the block. An accepted command leaves the command port and is executed at once; what is no command word
of the build is refused (log 6). -/
def step (s : State) : Host.Outcome State Fault Refusal :=
  match fetch s with
  | none => .next (hostAct s)
  | some (.ok i) => exec i s.dropEvent
  | some (.error _) => .refused .notACommandWord

/-- `s` with the instruction whose low `nbits` bits are `word`, and whose bits above them are 0, as the host's next
offer, hard reset released, so that the next step accepts and executes it (log 4). -/
def State.withFetchWord (s : State) (nbits word : Nat) : State :=
  s.offer (BitVec.ofNat 131 (word % 2 ^ nbits))

end Sys2Proof.Machine
end

