-- ==== Sys2Proof/Machine/Assembler.lean ====
section
/-! DEFINITION. The assembler the spec gives the commands (spec/30_encoding.md R58, R61 to R64). No step uses it. -/

namespace Sys2Proof.Machine

/-- One assembly line, operands as the numbers written (30_encoding R61 to R64). -/
inductive AsmLine where
  | wmul (a b : Nat)
  /-- the seed may be omitted (R64) -/
  | construct (seed : Option Nat) (m : Nat)
  | absorb (word : Nat)
  /-- pseudo-instruction (R62) -/
  | absorbAll (words : List Nat)
  | current
  /-- another spelling of CURRENT (R63) -/
  | finalize
  /-- the seed may be omitted (R64) -/
  | reset (seed : Option Nat)
  | hash (word m : Nat)
  deriving DecidableEq, Repr

/-- A literal as a Word; one that is not below 2^W is an assembly error (30_encoding R61). -/
def literalWord (w : Width) (n : Nat) : Option Word :=
  if n < 2 ^ w.bits then some (BitVec.ofNat 64 n) else none

/-- The literals of an ABSORBALL, in order; one bad literal is an error of the line. -/
def literalWords (w : Width) : List Nat → Option (List Word)
  | [] => some []
  | n :: rest =>
    match literalWord w n, literalWords w rest with
    | some v, some vs => some (v :: vs)
    | _, _ => none

/-- A command of two literal operands. -/
def assembleTwo (w : Width) (f : Word → Word → Instr) (x y : Nat) : Option (List Instr) :=
  match literalWord w x, literalWord w y with
  | some a, some b => some [f a b]
  | _, _ => none

/-- The commands one line assembles to; none is an assembly error (30_encoding R61 to R64). -/
def assemble (w : Width) : AsmLine → Option (List Instr)
  | .wmul a b => assembleTwo w .wmul a b
  | .construct seed m => assembleTwo w .construct (seed.getD 0) m
  | .absorb word => (literalWord w word).map fun v => [.absorb v]
  | .absorbAll words => (literalWords w words).map fun vs => vs.map .absorb
  | .current => some [.current]
  | .finalize => some [.current]
  | .reset seed => (literalWord w (seed.getD 0)).map fun v => [.reset v]
  | .hash word m => assembleTwo w .hash word m

/-- The command words one line assembles to. -/
def assembleWords (w : Width) (line : AsmLine) : Option (List CmdWord) :=
  (assemble w line).map fun is => is.map (encode w)

/-- A blank of the text. DESIGN CHOICE (log 10), safe. -/
def isBlank (c : Char) : Bool := c = ' ' || c = '\t'

/-- The text without blanks at either end. -/
def trimBlanks (cs : List Char) : List Char :=
  ((cs.dropWhile isBlank).reverse.dropWhile isBlank).reverse

/-- The pieces between the commas of a text. -/
def splitCommas : List Char → List (List Char)
  | [] => [[]]
  | c :: rest =>
    if c = ',' then [] :: splitCommas rest
    else
      match splitCommas rest with
      | [] => [[c]]
      | piece :: pieces => (c :: piece) :: pieces

/-- The digits of a literal, each standing at its own value (30_encoding R61: decimal, or hexadecimal after 0x). -/
def literalDigits : List Char := "0123456789ABCDEF".toList

/-- The value of a digit is its place among the digits; a hexadecimal letter is read in either case. DESIGN CHOICE (log
10), safe. -/
def digitValue (c : Char) : Option Nat := literalDigits.findIdx? fun d => d == c.toUpper

/-- The digits read on from the value `acc` in the base. -/
def readDigits (base acc : Nat) : List Char → Option Nat
  | [] => some acc
  | c :: rest =>
    match digitValue c with
    | some d => if d < base then readDigits base (acc * base + d) rest else none
    | none => none

/-- A number of at least one digit. -/
def readNumber (base : Nat) (cs : List Char) : Option Nat :=
  if cs = [] then none else readDigits base 0 cs

/-- A Word literal, in hexadecimal with 0x or in decimal (30_encoding R61). -/
def readLiteral (cs : List Char) : Option Nat :=
  match cs with
  | '0' :: 'x' :: rest => readNumber 16 rest
  | _ => readNumber 10 cs

/-- The literals of an operand list, which may be empty. -/
def readLiterals : List (List Char) → Option (List Nat)
  | [] => some []
  | cs :: rest =>
    match readLiteral (trimBlanks cs), readLiterals rest with
    | some n, some ns => some (n :: ns)
    | _, _ => none

/-- The line of a mnemonic and its literals; none where there is no such form (30_encoding R61 to R64). -/
def lineOf (mnemonic : List Char) (ops : List Nat) : Option AsmLine :=
  if mnemonic = ['W', 'M', 'U', 'L'] then
    match ops with
    | [a, b] => some (.wmul a b)
    | _ => none
  else if mnemonic = ['C', 'O', 'N', 'S', 'T', 'R', 'U', 'C', 'T'] then
    match ops with
    | [m] => some (.construct none m)
    | [seed, m] => some (.construct (some seed) m)
    | _ => none
  else if mnemonic = ['A', 'B', 'S', 'O', 'R', 'B'] then
    match ops with
    | [word] => some (.absorb word)
    | _ => none
  else if mnemonic = ['A', 'B', 'S', 'O', 'R', 'B', 'A', 'L', 'L'] then some (.absorbAll ops)
  else if mnemonic = ['C', 'U', 'R', 'R', 'E', 'N', 'T'] then
    match ops with
    | [] => some .current
    | _ => none
  else if mnemonic = ['F', 'I', 'N', 'A', 'L', 'I', 'Z', 'E'] then
    match ops with
    | [] => some .finalize
    | _ => none
  else if mnemonic = ['R', 'E', 'S', 'E', 'T'] then
    match ops with
    | [] => some (.reset none)
    | [seed] => some (.reset (some seed))
    | _ => none
  else if mnemonic = ['H', 'A', 'S', 'H'] then
    match ops with
    | [word, m] => some (.hash word m)
    | _ => none
  else none

/-- One line of text: the part before `#` is a mnemonic in capitals and its operands separated by commas (30_encoding
R61). `none` is an error; `some none` is a line that holds no command. DESIGN CHOICE (log 10), safe. -/
def parseLine (line : List Char) : Option (Option AsmLine) :=
  let body := trimBlanks (line.takeWhile fun c => c != '#')
  if body = [] then some none
  else
    let mnemonic := body.takeWhile fun c => !isBlank c
    let rest := trimBlanks (body.dropWhile fun c => !isBlank c)
    match if rest = [] then some [] else readLiterals (splitCommas rest) with
    | some ops => (lineOf mnemonic ops).map some
    | none => none

/-- The line of a command; a reserved opcode has no mnemonic (30_encoding R56, R61). -/
def lineOfInstr : Instr → Option AsmLine
  | .wmul a b => some (.wmul a.toNat b.toNat)
  | .construct seed m => some (.construct (some seed.toNat) m.toNat)
  | .absorb word => some (.absorb word.toNat)
  | .current => some .current
  | .reset seed => some (.reset (some seed.toNat))
  | .hash word m => some (.hash word.toNat m.toNat)
  | .reserved6 => none
  | .reserved7 => none

/-- The ignored operand fields of a command word that are not zero (30_encoding R52, R58). -/
def ignoredFields (w : Width) (cmd : CmdWord) : List Word :=
  let a := fieldA w cmd
  let b := fieldB w cmd
  let ignored :=
    match instrOfFields (fieldOp cmd) a b with
    | .wmul _ _ => []
    | .construct _ _ => []
    | .absorb _ => [b]
    | .current => [a, b]
    | .reset _ => [b]
    | .hash _ _ => []
    | .reserved6 => [a, b]
    | .reserved7 => [a, b]
  ignored.filter fun v => v != 0

/-- A command word as a line and what its comment shows, the non-zero ignored fields (30_encoding R58). -/
def disassemble (w : Width) (cmd : CmdWord) : Option (AsmLine × List Word) :=
  match decode w cmd with
  | .ok i => (lineOfInstr i).map fun line => (line, ignoredFields w cmd)
  | .error _ => none

end Sys2Proof.Machine
end

