-- ==== Sys2Proof/Machine/Sequence.lean ====
section
/-! DEFINITION. Lists of commands: the hash of a sequence of Words and a run of the one-at-a-time interpreter
(spec/41_stateful_hasher.md R86, R91, spec/20_memory.md R43, spec/70_reset_and_hazards.md R138). -/

namespace Sys2Proof.Machine

/-- AbsorbSeq(acc, M, ws), the left fold of Step over the Words (41_stateful_hasher R86). -/
def absorbSeq (w : Width) (acc m : Word) : List Word → Word
  | [] => acc
  | word :: rest => absorbSeq w (absorbStep w acc m word) m rest

/-- The commands executed one at a time in list order (20_memory R43): the interpreter every run must agree with. -/
def runCommands : List Instr → State → Host.Outcome State Fault Refusal
  | [], s => .next s
  | i :: rest, s =>
    match exec i s with
    | .next t => runCommands rest t
    | .fault r => .fault r
    | .refused r => .refused r

/-- The commands that write no state whatever the state is: CURRENT, WMUL, HASH, a CONSTRUCT that fails, and the
reserved opcodes (41_stateful_hasher R91). -/
def silent (c : Config) : Instr → Bool
  | .wmul _ _ => true
  | .construct _ m => !validM c m
  | .absorb _ => false
  | .current => true
  | .reset _ => false
  | .hash _ _ => true
  | .reserved6 => true
  | .reserved7 => true

end Sys2Proof.Machine
end

