-- ==== Sys2Proof/Safety.lean ====
section
/-! DEFINITION. What claims call a good state and a safe run (spec/10_state.md R26, R27, spec/30_encoding.md R55,
spec/70_reset_and_hazards.md R130, R135, R137). -/

namespace Sys2Proof.Machine

/-- ACC and MREG are Words of the build and MREG is a valid constant (10_state R21, R22, R26, R27). -/
def Hasher.wf (c : Config) (h : Hasher) : Bool :=
  h.acc.fits c.width && h.mreg.fits c.width && validM c h.mreg

/-- The states the spec gives the block; every step keeps them. -/
structure State.Inv (s : State) : Prop where
  /-- the parameters are in their domain (92_eei_decisions, "Open parameters, collected") -/
  cfg_wf : s.cfg.wf = true
  /-- whenever VALID = 1, ACC and MREG are Words and ValidM(MREG) holds (10_state R26, R27) -/
  hasher_wf : ∀ h, s.hasher = some h → h.wf s.cfg = true
  /-- while hard reset is asserted there is no hasher and no response (70_reset_and_hazards R130) -/
  reset_clear : s.inReset = true → s.hasher = none ∧ s.rspPort = []
  /-- every response holds Words, zero unless its status is OK (30_encoding R53, R55) -/
  port_wf : ∀ r ∈ s.rspPort, r.wf s.cfg.width = true
  /-- every response word delivered has RW bits (30_encoding R53) -/
  delivered_wf : ∀ rsp ∈ s.delivered, RspWord.fits s.cfg.width rsp = true

/-- The host offers only CW-bit words, as every host of the build does (30_encoding R50, 70_reset_and_hazards R137). -/
def State.offersFit (s : State) : Prop :=
  ∀ cmd, HostEvent.command cmd ∈ s.input → CmdWord.fits s.cfg.width cmd = true

/-- The first `k` steps from `s` neither fault nor are refused (60_exceptions R111). -/
def State.runsFor (k : Nat) (s : State) : Prop := ∃ t, Sys2Proof.core.run k s = .next t

end Sys2Proof.Machine
end

