-- ==== Sys2Proof/Certificates/Slice0/Obligations.lean ====
section
/-! DEFINITION. The statements about the block, from the spec's numbered rules. Arithmetic is written out as in the rules,
not by the model's own operations, wherever a rule gives a value. -/

section
open Sys2Proof Sys2Proof.Machine

/-! ### Reset and the invariant -/

/-- 10_state R31, 70_reset_and_hazards R131: after hard reset VALID = 0, ACC and MREG are absent (log 3), both ports are empty;
00_scope R2, R5: the default build has W = 64, P_MIN = 1, P_MAX = W - 1. -/
def Obligations.ResetHoldsNoHasher : Prop :=
  State.reset.valid = false ∧ State.reset.hasher = none ∧ State.reset.inReset = false ∧ State.reset.rspPort = [] ∧
    State.reset.input = [] ∧ State.reset.cfg = { width := .w64, pMin := 1, pMax := 63 }

/-- The reset state meets the invariant (10_state R26, R27, R31). -/
def Obligations.ResetStateMeetsInvariant : Prop := State.reset.Inv

/-- Every step keeps the invariant: parameters in their domain, ACC and MREG Words and ValidM(MREG) while VALID = 1
(10_state R26, R27), nothing held while hard reset is asserted (70_reset_and_hazards R130), responses of Words, zero
unless OK (30_encoding R53, R55), delivered words of RW bits. That hard reset clears when it is asserted is the model's
reading of R130 (log 5). -/
def Obligations.StepKeepsInvariant : Prop :=
  ∀ s t : State, s.Inv → step s = .next t → t.Inv

/-! ### Encoding -/

/-- Decoding the command word of a well-formed command gives it back, at both widths, for every command and operand
(30_encoding R51, R52, R56, R60). -/
def Obligations.DecodeInvertsEncode : Prop :=
  ∀ (w : Width) (i : Instr), i.wf w = true → decode w (encode w i) = .ok i

/-- Every CW-bit word decodes to a command whose operands are Words of the build, whatever A and B hold (30_encoding
R59, R60). The second part is the model's own (log 6): what is no CW-bit word is rejected by name. -/
def Obligations.EveryCommandWordDecodes : Prop :=
  ∀ (w : Width) (cmd : CmdWord),
    (cmd.toNat < 2 ^ (2 * w.bits + 3) → ∃ i, decode w cmd = .ok i ∧ i.wf w = true) ∧
      (¬ cmd.toNat < 2 ^ (2 * w.bits + 3) → decode w cmd = .error .notCwBits)

/-- 30_encoding R51, R60: every CW-bit word is B * 2^(W+3) + A * 2^3 + OP for Words A and B and an OP below 8, and the
decoder answers the command of the case list on these three numbers, B or both fields dropped where ignored. -/
def Obligations.DecoderReadsThreeFields : Prop :=
  ∀ (w : Width) (cmd : CmdWord), cmd.toNat < 2 ^ (2 * w.bits + 3) →
    ∃ (a b : Word) (op : Nat), a.toNat < 2 ^ w.bits ∧ b.toNat < 2 ^ w.bits ∧ op < 8 ∧
      cmd.toNat = b.toNat * 2 ^ (w.bits + 3) + a.toNat * 2 ^ 3 + op ∧
      decode w cmd = .ok
        (if op = 0 then .wmul a b else if op = 1 then .construct a b else if op = 2 then .absorb a
          else if op = 3 then .current else if op = 4 then .reset a else if op = 5 then .hash a b
          else if op = 6 then .reserved6 else .reserved7)

/-- 30_encoding R58 (and R57): two command words that differ only in ignored operand fields are answered alike and leave
the same state. -/
def Obligations.IgnoredFieldsHaveNoEffect : Prop :=
  ∀ (s : State) (cmd cmd' : CmdWord), cmd.fits s.cfg.width = true → cmd'.fits s.cfg.width = true →
    fieldOp cmd = fieldOp cmd' →
    (((fieldOp cmd).toNat = 2 ∨ (fieldOp cmd).toNat = 4) ∧ fieldA s.cfg.width cmd = fieldA s.cfg.width cmd') ∨
      (fieldOp cmd).toNat = 3 ∨ (fieldOp cmd).toNat = 6 ∨ (fieldOp cmd).toNat = 7 →
    step (s.offer cmd) = step (s.offer cmd')

/-- Seven words the spec works out, in 30_encoding section 8 and the programs of 95_test_vectors section 6, one for each of
the opcodes 0 to 6, and for OP = 7 the word 0x7, which is 30_encoding R51 and R56 and no worked word of the spec. -/
def Obligations.WorkedEncodingsDecode : Prop :=
  decode .w32 0x7FFFFFFFFFFFFFFF8 = .ok (.wmul 0xFFFFFFFF 0xFFFFFFFF) ∧
    decode .w64 0x3FFFFFFF80000000000000001 = .ok (.construct 0 0x7FFFFFFF) ∧
    decode .w64 0x91A2B3C2 = .ok (.absorb 0x12345678) ∧
    decode .w32 0x3 = .ok .current ∧
    decode .w64 0x2C = .ok (.reset 5) ∧
    decode .w64 0x3FFFFFFF800000006F56DF77D = .ok (.hash 0xDEADBEEF 0x7FFFFFFF) ∧
    decode .w64 0x2B3C000000000000091A6 = .ok .reserved6 ∧
    decode .w64 0x7 = .ok .reserved7

/-- 30_encoding R53, R54: a response word holds R1, R0 and the status code at the places of the rule, has RW bits, and
its fields read back the response. -/
def Obligations.ResponseWordHoldsThreeFields : Prop :=
  ∀ (w : Width) (r : Response), r.r1.toNat < 2 ^ w.bits → r.r0.toNat < 2 ^ w.bits →
    (r.encode w).toNat = r.r1.toNat * 2 ^ (w.bits + 2) + r.r0.toNat * 2 ^ 2 +
      (match r.st with | .ok => 0 | .invalidConstant => 1 | .noInstance => 2 | .illegalCommand => 3) ∧
    (r.encode w).toNat < 2 ^ (2 * w.bits + 2) ∧ Response.ofWord w (r.encode w) = r

/-! ### Steps at the ports -/

/-- An accepted command word that decodes to `i` leaves the command port, and the step is `exec i` (20_memory R42, R43). -/
def Obligations.StepRunsAcceptedCommand : Prop :=
  ∀ (s : State) (cmd : CmdWord) (rest : List HostEvent) (i : Instr), s.input = .command cmd :: rest →
    s.inReset = false → decode s.cfg.width cmd = .ok i → step s = exec i { s with input := rest }

/-- With nothing from the host the block holds its state (60_exceptions R122, 70_reset_and_hazards R137). -/
def Obligations.IdleStepHoldsState : Prop :=
  ∀ s : State, (s.input = [] → step s = .next s) ∧
    ∀ rest, s.input = .idle :: rest → step s = .next { s with input := rest }

/-- Taking a response delivers the oldest one as its response word and changes nothing else (70_reset_and_hazards R136,
30_encoding R53). That taking from an empty port delivers nothing is the model's choice (log 4). -/
def Obligations.HostTakesOldestResponse : Prop :=
  ∀ (s : State) (rest : List HostEvent), s.input = .takeResponse :: rest →
    (∀ r rs, s.rspPort = r :: rs →
      step s = .next { s with input := rest, rspPort := rs, delivered := s.delivered ++ [r.encode s.cfg.width] }) ∧
    (s.rspPort = [] → step s = .next { s with input := rest })

/-- Hard reset, asserted in any state and released after any number of host events other than itself: the hasher and the
undelivered responses are gone, nothing was executed or delivered in between, and the parameters stand
(70_reset_and_hazards R130, R131). That an offer made meanwhile lapses is the model's choice (log 5). -/
def Obligations.HardResetClearsTheBlock : Prop :=
  ∀ (s : State) (during rest : List HostEvent), (∀ e ∈ during, e ≠ .assertReset ∧ e ≠ .releaseReset) →
    s.input = .assertReset :: (during ++ .releaseReset :: rest) →
    core.run (during.length + 2) s =
      .next { s with hasher := none, rspPort := [], inReset := false, input := rest }

/-- Whatever commands of the build and other events the host sends, no step faults or is refused: the block never stops
(60_exceptions R111, R118, 70_reset_and_hazards R135). -/
def Obligations.RunNeverStops : Prop :=
  ∀ (k : Nat) (s : State), s.offersFit → s.runsFor k

/-- No step changes W, P_MIN or P_MAX (00_scope R2, R7, 70_reset_and_hazards R131). -/
def Obligations.ParametersNeverChange : Prop :=
  ∀ s t : State, step s = .next t → t.cfg = s.cfg

/-! ### The commands -/

/-- WMUL (40_widening_multiplier R71): for any operands, OK with R1 the high and R0 the low half of the product; nothing
else changes. -/
def Obligations.WmulAnswersProduct : Prop :=
  ∀ (a b : Word) (s : State), exec (.wmul a b) s = .next { s with
    rspPort := s.rspPort ++ [{
      st := .ok
      r1 := BitVec.ofNat 64 (a.toNat * b.toNat / 2 ^ s.cfg.width.bits)
      r0 := BitVec.ofNat 64 (a.toNat * b.toNat % 2 ^ s.cfg.width.bits) }] }

/-- CONSTRUCT with M = 2^p - 1, P_MIN <= p <= P_MAX (41_stateful_hasher R80, R81, 00_scope R4): whatever was held before,
ACC = seed, MREG = M, VALID = 1, answer OK; nothing else changes. -/
def Obligations.ConstructMakesHasher : Prop :=
  ∀ (seed m : Word) (s : State) (p : Nat), s.cfg.pMin ≤ p → p ≤ s.cfg.pMax → m.toNat = 2 ^ p - 1 →
    exec (.construct seed m) s = .next { s with
      hasher := some { acc := seed, mreg := m }, rspPort := s.rspPort ++ [{ st := .ok, r1 := 0, r0 := 0 }] }

/-- CONSTRUCT and HASH with a Word that is no such 2^p - 1 (60_exceptions R112, 41_stateful_hasher R81, 42_stateless_hash
R100): INVALID_CONSTANT with zero data, and a hasher already there stands as it was. -/
def Obligations.InvalidConstantChangesNothing : Prop :=
  ∀ (x m : Word) (s : State), (∀ p, s.cfg.pMin ≤ p → p ≤ s.cfg.pMax → m.toNat ≠ 2 ^ p - 1) →
    exec (.construct x m) s =
        .next { s with rspPort := s.rspPort ++ [{ st := .invalidConstant, r1 := 0, r0 := 0 }] } ∧
      exec (.hash x m) s =
        .next { s with rspPort := s.rspPort ++ [{ st := .invalidConstant, r1 := 0, r0 := 0 }] }

/-- ABSORB with VALID = 1 (41_stateful_hasher R82): ACC becomes the high half of (ACC XOR word) * MREG, MREG and VALID
stay, answer OK; nothing else changes. -/
def Obligations.AbsorbUpdatesAccumulator : Prop :=
  ∀ (word : Word) (s : State) (h : Hasher), s.hasher = some h →
    exec (.absorb word) s = .next { s with
      hasher := some { acc := BitVec.ofNat 64 ((h.acc ^^^ word).toNat * h.mreg.toNat / 2 ^ s.cfg.width.bits),
                       mreg := h.mreg },
      rspPort := s.rspPort ++ [{ st := .ok, r1 := 0, r0 := 0 }] }

/-- CURRENT with VALID = 1 (41_stateful_hasher R84): OK with R0 = ACC; nothing else changes. -/
def Obligations.CurrentAnswersAccumulator : Prop :=
  ∀ (s : State) (h : Hasher), s.hasher = some h →
    exec .current s = .next { s with rspPort := s.rspPort ++ [{ st := .ok, r1 := 0, r0 := h.acc }] }

/-- RESET with VALID = 1 (41_stateful_hasher R85): ACC = seed, MREG and VALID stay, answer OK; nothing else changes. -/
def Obligations.ResetLoadsSeed : Prop :=
  ∀ (seed : Word) (s : State) (h : Hasher), s.hasher = some h →
    exec (.reset seed) s = .next { s with
      hasher := some { acc := seed, mreg := h.mreg }, rspPort := s.rspPort ++ [{ st := .ok, r1 := 0, r0 := 0 }] }

/-- HASH with M = 2^p - 1, P_MIN <= p <= P_MAX (42_stateless_hash R100): OK with R0 = high XOR low of word * M, with or
without a hasher; nothing else changes. -/
def Obligations.HashFoldsProduct : Prop :=
  ∀ (word m : Word) (s : State) (p : Nat), s.cfg.pMin ≤ p → p ≤ s.cfg.pMax → m.toNat = 2 ^ p - 1 →
    exec (.hash word m) s = .next { s with
      rspPort := s.rspPort ++ [{
        st := .ok
        r1 := 0
        r0 := BitVec.ofNat 64 (word.toNat * m.toNat / 2 ^ s.cfg.width.bits) ^^^
          BitVec.ofNat 64 (word.toNat * m.toNat % 2 ^ s.cfg.width.bits) }] }

/-- The reserved opcodes (30_encoding R57): whatever the operands and the state, ILLEGAL_COMMAND with zero data and
nothing else changes, as commands and as words at the port; the next event follows. -/
def Obligations.ReservedOpcodeIsIllegal : Prop :=
  (∀ s : State,
    exec .reserved6 s = .next { s with rspPort := s.rspPort ++ [{ st := .illegalCommand, r1 := 0, r0 := 0 }] } ∧
    exec .reserved7 s = .next { s with rspPort := s.rspPort ++ [{ st := .illegalCommand, r1 := 0, r0 := 0 }] }) ∧
  ∀ (s : State) (cmd : CmdWord) (rest : List HostEvent), s.input = .command cmd :: rest → s.inReset = false →
    cmd.toNat < 2 ^ (2 * s.cfg.width.bits + 3) → cmd.toNat % 8 = 6 ∨ cmd.toNat % 8 = 7 →
    step s = .next { s with
      input := rest, rspPort := s.rspPort ++ [{ st := .illegalCommand, r1 := 0, r0 := 0 }] }

/-- ABSORB, CURRENT and RESET with VALID = 0 (60_exceptions R113, 10_state R30): NO_INSTANCE with zero data and nothing
else changes. -/
def Obligations.NoHasherNoInstance : Prop :=
  ∀ (x : Word) (s : State), s.valid = false →
    exec (.absorb x) s = .next { s with rspPort := s.rspPort ++ [{ st := .noInstance, r1 := 0, r0 := 0 }] } ∧
    exec .current s = .next { s with rspPort := s.rspPort ++ [{ st := .noInstance, r1 := 0, r0 := 0 }] } ∧
    exec (.reset x) s = .next { s with rspPort := s.rspPort ++ [{ st := .noInstance, r1 := 0, r0 := 0 }] }

/-! ### Rules over all commands -/

/-- Every command in every state completes with exactly one response, put behind the earlier ones, and changes neither
the parameters nor the ports' other parts (20_memory R43, 70_reset_and_hazards R136). -/
def Obligations.OneResponsePerCommand : Prop :=
  ∀ (i : Instr) (s : State), ∃ (h : Option Hasher) (r : Response),
    exec i s = .next { s with hasher := h, rspPort := s.rspPort ++ [r] }

/-- 60_exceptions R110 to R114: the exact condition of each error, OK in every other case, and no effect of a
command that errs but its response with zero data. -/
def Obligations.ErrorsExactlyWhenStated : Prop :=
  ∀ (i : Instr) (s : State), ∃ (t : State) (r : Response), exec i s = .next t ∧ t.rspPort = s.rspPort ++ [r] ∧
    (r.st = .invalidConstant ↔ ∃ x m : Word, (i = .construct x m ∨ i = .hash x m) ∧
      ∀ p, s.cfg.pMin ≤ p → p ≤ s.cfg.pMax → m.toNat ≠ 2 ^ p - 1) ∧
    (r.st = .noInstance ↔ (i = .current ∨ ∃ x : Word, i = .absorb x ∨ i = .reset x) ∧ s.valid = false) ∧
    (r.st = .illegalCommand ↔ i = .reserved6 ∨ i = .reserved7) ∧
    (r.st ≠ .ok → t = { s with rspPort := s.rspPort ++ [{ st := r.st, r1 := 0, r0 := 0 }] })

/-- The access matrix (10_state R30): only CONSTRUCT, ABSORB and RESET change the hasher, only CONSTRUCT changes MREG, and
no command clears VALID. -/
def Obligations.CommandsKeepRegisters : Prop :=
  ∀ (i : Instr) (s t : State), exec i s = .next t →
    (s.valid = true → t.valid = true) ∧
    ((∀ x m : Word, i ≠ .construct x m) → t.valid = s.valid ∧ t.hasher.map Hasher.mreg = s.hasher.map Hasher.mreg) ∧
    ((∀ x m : Word, i ≠ .construct x m ∧ i ≠ .absorb x ∧ i ≠ .reset x) → t.hasher = s.hasher)

/-- VALID returns to 0 by hard reset alone (70_reset_and_hazards R130, 60_exceptions R123, 10_state R23), in every state
that meets the invariant. That it is the ASSERT event which ends the hasher is the model's reading of R130, which gives
only the state when hard reset is released (log 5). -/
def Obligations.OnlyHardResetEndsHasher : Prop :=
  ∀ s t : State, s.Inv → step s = .next t → s.valid = true → t.valid = false →
    ∃ rest, s.input = .assertReset :: rest

/-- VALID becomes 1, and MREG takes another value, only by an accepted CONSTRUCT with a valid constant, which then holds
exactly the new seed and constant (10_state R22, R23). -/
def Obligations.OnlyConstructInstallsConstant : Prop :=
  ∀ (s t : State) (h' : Hasher), step s = .next t → t.hasher = some h' →
    (∀ h, s.hasher = some h → h.mreg ≠ h'.mreg) →
    ∃ cmd rest p, s.input = .command cmd :: rest ∧ s.inReset = false ∧
      decode s.cfg.width cmd = .ok (.construct h'.acc h'.mreg) ∧
      s.cfg.pMin ≤ p ∧ p ≤ s.cfg.pMax ∧ h'.mreg.toNat = 2 ^ p - 1

/-- WMUL and HASH answer from their operands alone and leave every state as it was but for the response
(40_widening_multiplier R75, 42_stateless_hash R101): two states of one build, whatever else they hold, get the same
response. -/
def Obligations.PureUnitsIgnoreState : Prop :=
  ∀ (i : Instr) (s s' : State), s.cfg = s'.cfg → (∃ a b : Word, i = .wmul a b ∨ i = .hash a b) →
    ∃ r : Response, exec i s = .next { s with rspPort := s.rspPort ++ [r] } ∧
      exec i s' = .next { s' with rspPort := s'.rspPort ++ [r] }

/-! ### Arithmetic -/

/-- 00_scope R4: ValidM(m) holds exactly for m = 2^p - 1 with P_MIN <= p <= P_MAX, and with the default range it is the
rule's bit test. -/
def Obligations.ValidConstantIsRunOfOnes : Prop :=
  (∀ (c : Config) (m : Word), validM c m = true ↔ ∃ p, c.pMin ≤ p ∧ p ≤ c.pMax ∧ m.toNat = 2 ^ p - 1) ∧
  ∀ (w : Width) (m : Word), m.toNat < 2 ^ w.bits →
    (validM { width := w, pMin := 1, pMax := w.bits - 1 } m = true ↔
      m ≠ 0 ∧ m.toNat &&& (m.toNat + 1) = 0 ∧ m.toNat.testBit (w.bits - 1) = false)

/-- 40_widening_multiplier R70: the two halves are Words, and are the quotient and the remainder of the exact product, so
they make it up without loss. -/
def Obligations.WideningMultiplyIsExact : Prop :=
  ∀ (w : Width) (a b : Word), a.toNat < 2 ^ w.bits → b.toNat < 2 ^ w.bits →
    (wmul w a b).1.toNat * 2 ^ w.bits + (wmul w a b).2.toNat = a.toNat * b.toNat ∧
    (wmul w a b).1.toNat = a.toNat * b.toNat / 2 ^ w.bits ∧ (wmul w a b).2.toNat = a.toNat * b.toNat % 2 ^ w.bits ∧
    (wmul w a b).1.toNat < 2 ^ w.bits ∧ (wmul w a b).2.toNat < 2 ^ w.bits

/-- 40_widening_multiplier R72 (a) to (g). -/
def Obligations.WideningMultiplyLaws : Prop :=
  ∀ (w : Width) (a b : Word), a.toNat < 2 ^ w.bits → b.toNat < 2 ^ w.bits →
    (wmul w a b).1.toNat * 2 ^ w.bits + (wmul w a b).2.toNat = a.toNat * b.toNat ∧
    wmul w a b = wmul w b a ∧
    wmul w 0 b = (0, 0) ∧ wmul w a 0 = (0, 0) ∧
    wmul w 1 b = (0, b) ∧
    (wmul w a b).1.toNat ≤ 2 ^ w.bits - 2 ∧
    ((wmul w a b).1.toNat = 2 ^ w.bits - 2 ↔ a.toNat = 2 ^ w.bits - 1 ∧ b.toNat = 2 ^ w.bits - 1) ∧
    (a.toNat = 2 ^ w.bits - 1 → b.toNat = 2 ^ w.bits - 1 → (wmul w a b).2.toNat = 1) ∧
    (a.toNat * b.toNat < 2 ^ w.bits → (wmul w a b).1 = 0 ∧ (wmul w a b).2.toNat = a.toNat * b.toNat) ∧
    (wmul w a b).2.toNat = a.toNat * b.toNat % 2 ^ w.bits

/-- 40_widening_multiplier R73: the four half-width partial products make the same product, and the bound on the middle
sum, which is reached. -/
def Obligations.PartialProductsMakeProduct : Prop :=
  ∀ (w : Width) (h : Nat), 2 * h = w.bits → ∀ aH aL bH bL : Nat, aH < 2 ^ h → aL < 2 ^ h → bH < 2 ^ h → bL < 2 ^ h →
    ∀ a b : Word, a.toNat = aH * 2 ^ h + aL → b.toNat = bH * 2 ^ h + bL →
    (wmul w a b).1.toNat * 2 ^ w.bits + (wmul w a b).2.toNat =
      aH * bH * 2 ^ w.bits + (aH * bL + aL * bH) * 2 ^ h + aL * bL ∧
    aH * bL + aL * bH ≤ 2 ^ (w.bits + 1) - 2 ^ (h + 2) + 2 ∧
    (aH = 2 ^ h - 1 → aL = 2 ^ h - 1 → bH = 2 ^ h - 1 → bL = 2 ^ h - 1 →
      aH * bL + aL * bH = 2 ^ (w.bits + 1) - 2 ^ (h + 2) + 2)

/-- 40_widening_multiplier R74: for b = 2^p - 1 with 1 <= p <= W - 1 the product is (a << p) - a, the high half is at most
2^p - 2 and so below b, and it is 2^p - 2 at a = 2^W - 1. -/
def Obligations.ShiftSubtractMakesProduct : Prop :=
  ∀ (w : Width) (a b : Word) (p : Nat), a.toNat < 2 ^ w.bits → 1 ≤ p → p ≤ w.bits - 1 → b.toNat = 2 ^ p - 1 →
    (wmul w a b).1.toNat * 2 ^ w.bits + (wmul w a b).2.toNat = (a.toNat <<< p) - a.toNat ∧
    (wmul w a b).1.toNat = (a.toNat * 2 ^ p - a.toNat) / 2 ^ w.bits ∧
    (wmul w a b).1.toNat ≤ 2 ^ p - 2 ∧ (wmul w a b).1.toNat < b.toNat ∧
    (a.toNat = 2 ^ w.bits - 1 → (wmul w a b).1.toNat = 2 ^ p - 2)

/-- ABSORB's corner cases (41_stateful_hasher R82, 40_widening_multiplier R74), from any state that meets the invariant:
ACC ends at most M - 1, at 0 for word = ACC or a product below 2^W, and at M - 1 for x all ones and M > 0. -/
def Obligations.AbsorbCornerCases : Prop :=
  ∀ (word : Word) (s : State) (h : Hasher), s.Inv → s.hasher = some h → word.toNat < 2 ^ s.cfg.width.bits →
    ∃ (t : State) (h' : Hasher), exec (.absorb word) s = .next t ∧ t.hasher = some h' ∧
      h'.acc.toNat ≤ h.mreg.toNat - 1 ∧
      (word = h.acc → h'.acc = 0) ∧
      ((h.acc ^^^ word).toNat * h.mreg.toNat < 2 ^ s.cfg.width.bits → h'.acc = 0) ∧
      ((h.acc ^^^ word).toNat = 2 ^ s.cfg.width.bits - 1 → h'.acc.toNat = h.mreg.toNat - 1)

/-- HASH's corner cases (42_stateless_hash R100) for M = 2^p - 1 with p >= 1 in the range: 0 gives 0, M = 1 gives the word,
a product below 2^W is the answer itself, the word of all ones gives all ones. -/
def Obligations.HashCornerCases : Prop :=
  ∀ (word m : Word) (s : State) (p : Nat), s.cfg.wf = true → word.toNat < 2 ^ s.cfg.width.bits → 1 ≤ p →
    s.cfg.pMin ≤ p → p ≤ s.cfg.pMax → m.toNat = 2 ^ p - 1 →
    ∃ r0 : Word, exec (.hash word m) s =
        .next { s with rspPort := s.rspPort ++ [{ st := .ok, r1 := 0, r0 := r0 }] } ∧
      (word = 0 → r0 = 0) ∧ (m = 1 → r0 = word) ∧
      (word.toNat * m.toNat < 2 ^ s.cfg.width.bits → r0.toNat = word.toNat * m.toNat) ∧
      (word.toNat = 2 ^ s.cfg.width.bits - 1 → r0.toNat = 2 ^ s.cfg.width.bits - 1)

/-! ### Sequences of commands -/

/-- 41_stateful_hasher R86: AbsorbSeq is the left fold of Step, splits over concatenation, and is the R0 of a CURRENT
after CONSTRUCT s, M and the ABSORBs of the Words, from any state of the block. -/
def Obligations.SequenceHashIsAbsorbSeq : Prop :=
  (∀ (w : Width) (acc m : Word), absorbSeq w acc m [] = acc) ∧
  (∀ (w : Width) (acc m x : Word) (xs : List Word), absorbSeq w acc m (x :: xs) =
    absorbSeq w (BitVec.ofNat 64 ((acc ^^^ x).toNat * m.toNat / 2 ^ w.bits)) m xs) ∧
  (∀ (w : Width) (acc m : Word) (u v : List Word),
    absorbSeq w acc m (u ++ v) = absorbSeq w (absorbSeq w acc m u) m v) ∧
  ∀ (s : State) (seed m : Word) (ws : List Word) (p : Nat), s.cfg.pMin ≤ p → p ≤ s.cfg.pMax → m.toNat = 2 ^ p - 1 →
    runCommands (.construct seed m :: (ws.map .absorb ++ [.current])) s = .next { s with
      hasher := some { acc := absorbSeq s.cfg.width seed m ws, mreg := m },
      rspPort := s.rspPort ++ (List.replicate (ws.length + 1) { st := .ok, r1 := 0, r0 := 0 } ++
        [{ st := .ok, r1 := 0, r0 := absorbSeq s.cfg.width seed m ws }]) }

/-- 41_stateful_hasher R87: with no Word absorbed the hash is the seed. Whatever commands that write no state (`silent`:
CURRENT, WMUL, HASH, a failing CONSTRUCT, the reserved opcodes) stand between a successful CONSTRUCT s, M or a RESET s and
a CURRENT, that CURRENT answers s. -/
def Obligations.EmptySequenceHashesToSeed : Prop :=
  (∀ (w : Width) (seed m : Word), absorbSeq w seed m [] = seed) ∧
  (∀ (s : State) (seed m : Word) (between : List Instr), validM s.cfg m = true →
    (∀ i ∈ between, silent s.cfg i = true) → ∃ (t : State) (rs : List Response), rs.length = between.length ∧
      runCommands (.construct seed m :: (between ++ [.current])) s = .next t ∧
      t.rspPort = s.rspPort ++ ({ st := .ok, r1 := 0, r0 := 0 } :: (rs ++ [{ st := .ok, r1 := 0, r0 := seed }]))) ∧
  ∀ (s : State) (seed : Word) (between : List Instr), s.valid = true →
    (∀ i ∈ between, silent s.cfg i = true) → ∃ (t : State) (rs : List Response), rs.length = between.length ∧
      runCommands (.reset seed :: (between ++ [.current])) s = .next t ∧
      t.rspPort = s.rspPort ++ ({ st := .ok, r1 := 0, r0 := 0 } :: (rs ++ [{ st := .ok, r1 := 0, r0 := seed }]))

/-- 41_stateful_hasher R89: RESET s and a replay of the Words leave the ACC of a fresh CONSTRUCT s, M and the same Words,
namely AbsorbSeq(s, M, ws), whatever the hasher of constant M held before. -/
def Obligations.ResetReplaysLikeConstruct : Prop :=
  ∀ (s s' : State) (h : Hasher) (seed : Word) (ws : List Word), s.cfg = s'.cfg → s.hasher = some h →
    validM s.cfg h.mreg = true → ∃ t t' : State,
      runCommands (.reset seed :: ws.map .absorb) s = .next t ∧
      runCommands (.construct seed h.mreg :: ws.map .absorb) s' = .next t' ∧
      t.hasher = some { acc := absorbSeq s.cfg.width seed h.mreg ws, mreg := h.mreg } ∧ t'.hasher = t.hasher

/-- 41_stateful_hasher R90: order matters for the rule's three pairs, and the pair the source suggests hashes to 0 both
ways at both widths. -/
def Obligations.OrderOfWordsMatters : Prop :=
  absorbSeq .w32 0 0x7FFFFFFF [4, 8] = 0x4 ∧ absorbSeq .w32 0 0x7FFFFFFF [8, 4] = 0x3 ∧
  absorbSeq .w64 0 0x7FFFFFFF [0x0123456789ABCDEF, 0xFEDCBA9876543210] = 0x7F6E5D4B ∧
  absorbSeq .w64 0 0x7FFFFFFF [0xFEDCBA9876543210, 0x0123456789ABCDEF] = 0x91A2B3 ∧
  absorbSeq .w64 0 0x1FFFFFFFFFFFFFFF [0x0123456789ABCDEF, 0xFEDCBA9876543210] = 0x1FDF1A4690EC2974 ∧
  absorbSeq .w64 0 0x1FFFFFFFFFFFFFFF [0xFEDCBA9876543210, 0x0123456789ABCDEF] = 0x03DF1A4690EC2975 ∧
  ∀ w : Width, absorbSeq w 0 0x7FFFFFFF [1, 2] = 0 ∧ absorbSeq w 0 0x7FFFFFFF [2, 1] = 0

/-- 41_stateful_hasher R91: `cs` is a list of commands in which those marked `true` were inserted, each a CURRENT, WMUL,
HASH, failing CONSTRUCT or reserved opcode. The run with them and the run without them end with the same hasher, and every
other command has the same response in both. -/
def Obligations.PeekingDoesNotPerturb : Prop :=
  ∀ (s : State) (cs : List (Bool × Instr)), (∀ x ∈ cs, x.1 = true → silent s.cfg x.2 = true) →
    ∃ (t u : State) (rs : List Response), rs.length = cs.length ∧
      runCommands (cs.map (·.2)) s = .next t ∧
      runCommands ((cs.filter fun x => !x.1).map (·.2)) s = .next u ∧
      t.hasher = u.hasher ∧ t.rspPort = s.rspPort ++ rs ∧
      u.rspPort = s.rspPort ++ ((cs.zip rs).filter fun x => !x.1.1).map (·.2)

/-- 42_stateless_hash R102: for a valid M, HASH w, M answers Step(0, M, w) XOR the low half of w * M. -/
def Obligations.HashIsAbsorbFoldedWithLow : Prop :=
  ∀ (word m : Word) (s : State), validM s.cfg m = true → word.toNat < 2 ^ s.cfg.width.bits →
    ∃ (t : State) (h : Hasher) (r : Response), exec (.hash word m) s = .next { s with rspPort := s.rspPort ++ [r] } ∧
      runCommands [.construct 0 m, .absorb word] s = .next t ∧ t.hasher = some h ∧
      r.r0 = h.acc ^^^ BitVec.ofNat 64 (word.toNat * m.toNat % 2 ^ s.cfg.width.bits)

/-- 20_memory R43, 70_reset_and_hazards R138: stepping the block through the host's command words is what the
one-at-a-time interpreter of the command list does. -/
def Obligations.RunAgreesWithInterpreter : Prop :=
  ∀ (s : State) (cs : List Instr) (rest : List HostEvent), s.inReset = false →
    (∀ i ∈ cs, i.wf s.cfg.width = true) →
    s.input = cs.map (fun i => .command (encode s.cfg.width i)) ++ rest →
    core.run cs.length s = runCommands cs { s with input := rest }

/-- 70_reset_and_hazards R136, 20_memory R43: when the host sends commands and then takes as many responses, it gets
exactly one response word per command, in command order, each that of the command's own response. -/
def Obligations.ResponsesDeliveredInOrder : Prop :=
  ∀ (s : State) (cs : List Instr), s.inReset = false → s.rspPort = [] → (∀ i ∈ cs, i.wf s.cfg.width = true) →
    s.input = cs.map (fun i => .command (encode s.cfg.width i)) ++ List.replicate cs.length .takeResponse →
    ∃ t u : State, core.run (cs.length + cs.length) s = .next t ∧
      runCommands cs { s with input := [] } = .next u ∧ u.rspPort.length = cs.length ∧
      t = { u with rspPort := [], delivered := s.delivered ++ u.rspPort.map (Response.encode s.cfg.width) }

/-! ### The assembler -/

/-- 30_encoding R61 to R64: with literals below 2^W each line is the one word of its command, zero in every ignored field;
ABSORBALL is its ABSORBs in order (none for no Word), FINALIZE is CURRENT, an omitted seed is 0; and a literal that is not
below 2^W is an error. -/
def Obligations.AssemblerExpandsPseudoInstructions : Prop :=
  ∀ w : Width,
    (∀ x y : Nat, x < 2 ^ w.bits → y < 2 ^ w.bits →
      assembleWords w (.wmul x y) = some [BitVec.ofNat 131 (y * 2 ^ (w.bits + 3) + x * 2 ^ 3 + 0)] ∧
      assembleWords w (.construct (some x) y) = some [BitVec.ofNat 131 (y * 2 ^ (w.bits + 3) + x * 2 ^ 3 + 1)] ∧
      assembleWords w (.absorb x) = some [BitVec.ofNat 131 (x * 2 ^ 3 + 2)] ∧
      assembleWords w .current = some [3] ∧
      assembleWords w (.reset (some x)) = some [BitVec.ofNat 131 (x * 2 ^ 3 + 4)] ∧
      assembleWords w (.hash x y) = some [BitVec.ofNat 131 (y * 2 ^ (w.bits + 3) + x * 2 ^ 3 + 5)]) ∧
    (∀ ns : List Nat, (∀ n ∈ ns, n < 2 ^ w.bits) →
      assembleWords w (.absorbAll ns) = some (ns.map fun n => BitVec.ofNat 131 (n * 2 ^ 3 + 2))) ∧
    (∀ ns : List Nat, (∃ n ∈ ns, ¬ n < 2 ^ w.bits) → assembleWords w (.absorbAll ns) = none) ∧
    assembleWords w .finalize = assembleWords w .current ∧
    (∀ m : Nat, assembleWords w (.construct none m) = assembleWords w (.construct (some 0) m)) ∧
    assembleWords w (.reset none) = assembleWords w (.reset (some 0)) ∧
    ∀ x y : Nat, ¬ x < 2 ^ w.bits →
      assembleWords w (.wmul x y) = none ∧ assembleWords w (.wmul y x) = none ∧
      assembleWords w (.construct (some x) y) = none ∧ assembleWords w (.construct (some y) x) = none ∧
      assembleWords w (.absorb x) = none ∧ assembleWords w (.reset (some x)) = none ∧
      assembleWords w (.hash x y) = none ∧ assembleWords w (.hash y x) = none

end
end

