-- ==== Sys2Proof/Laws/Decode.lean ====
section
/-! SUPPORT. The fields of a command word as numbers, and the number of a packed command word. -/

namespace Sys2Proof

theorem Word.fits_iff (w : Width) (v : Word) : v.fits w = true ↔ v.toNat < 2 ^ w.bits := by
  simp only [Word.fits, decide_eq_true_eq]

theorem CmdWord.fits_iff (w : Width) (cmd : CmdWord) : cmd.fits w = true ↔ cmd.toNat < 2 ^ (2 * w.bits + 3) := by
  simp only [CmdWord.fits, decide_eq_true_eq]; rfl

theorem RspWord.fits_iff (w : Width) (rsp : RspWord) : rsp.fits w = true ↔ rsp.toNat < 2 ^ (2 * w.bits + 2) := by
  simp only [RspWord.fits, decide_eq_true_eq]; rfl

theorem fieldOp_toNat (cmd : CmdWord) : (fieldOp cmd).toNat = cmd.toNat % 8 := by
  simp [fieldOp, BitVec.extractLsb'_toNat]

theorem fieldA_toNat (w : Width) (cmd : CmdWord) : (fieldA w cmd).toNat = cmd.toNat / 2 ^ 3 % 2 ^ w.bits := by
  cases w <;> simp [fieldA, Width.bits, BitVec.extractLsb'_toNat, Nat.shiftRight_eq_div_pow]
  omega

theorem fieldB_toNat (w : Width) (cmd : CmdWord) :
    (fieldB w cmd).toNat = cmd.toNat / 2 ^ (w.bits + 3) % 2 ^ w.bits := by
  cases w <;> simp [fieldB, Width.bits, BitVec.extractLsb'_toNat, Nat.shiftRight_eq_div_pow]
  omega

/-- A packed command word loses no bit. -/
theorem packCommand_toNat {w : Width} {op : Nat} {a b : Word} (hop : op < 8) (ha : a.fits w = true)
    (hb : b.fits w = true) :
    (packCommand w op a b).toNat = b.toNat * 2 ^ (w.bits + 3) + a.toNat * 2 ^ 3 + op := by
  simp only [Word.fits, decide_eq_true_eq] at ha hb
  cases w <;> simp only [Width.bits] at ha hb <;> simp [packCommand, Width.bits] <;> omega

theorem packCommand_fits {w : Width} {op : Nat} {a b : Word} (hop : op < 8) (ha : a.fits w = true)
    (hb : b.fits w = true) : (packCommand w op a b).fits w = true := by
  simp only [CmdWord.fits, decide_eq_true_eq, packCommand_toNat hop ha hb]
  simp only [Word.fits, decide_eq_true_eq] at ha hb
  cases w <;> simp only [Width.bits, Width.cmdBits] at ha hb ⊢ <;> omega

end Sys2Proof
end

