-- ==== Sys2Proof/Laws/State.lean ====
section
/-! SUPPORT. What each update of the state does to each field, so that no later proof unfolds a record update. -/

namespace Sys2Proof.Machine

@[simp] theorem State.respond_cfg (s : State) (st : Status) (r1 r0 : Word) : (s.respond st r1 r0).cfg = s.cfg := rfl
@[simp] theorem State.respond_hasher (s : State) (st : Status) (r1 r0 : Word) : (s.respond st r1 r0).hasher = s.hasher := rfl
@[simp] theorem State.respond_inReset (s : State) (st : Status) (r1 r0 : Word) : (s.respond st r1 r0).inReset = s.inReset := rfl
@[simp] theorem State.respond_rspPort (s : State) (st : Status) (r1 r0 : Word) : (s.respond st r1 r0).rspPort = s.rspPort ++ [{ st := st, r1 := r1, r0 := r0 }] := rfl
@[simp] theorem State.respond_input (s : State) (st : Status) (r1 r0 : Word) : (s.respond st r1 r0).input = s.input := rfl
@[simp] theorem State.respond_delivered (s : State) (st : Status) (r1 r0 : Word) : (s.respond st r1 r0).delivered = s.delivered := rfl

@[simp] theorem State.install_cfg (s : State) (seed m : Word) : (s.install seed m).cfg = s.cfg := rfl
@[simp] theorem State.install_hasher (s : State) (seed m : Word) : (s.install seed m).hasher = some { acc := seed, mreg := m } := rfl
@[simp] theorem State.install_inReset (s : State) (seed m : Word) : (s.install seed m).inReset = s.inReset := rfl
@[simp] theorem State.install_rspPort (s : State) (seed m : Word) : (s.install seed m).rspPort = s.rspPort := rfl
@[simp] theorem State.install_input (s : State) (seed m : Word) : (s.install seed m).input = s.input := rfl
@[simp] theorem State.install_delivered (s : State) (seed m : Word) : (s.install seed m).delivered = s.delivered := rfl

@[simp] theorem State.writeAcc_cfg (s : State) (h : Hasher) (v : Word) : (s.writeAcc h v).cfg = s.cfg := rfl
@[simp] theorem State.writeAcc_hasher (s : State) (h : Hasher) (v : Word) : (s.writeAcc h v).hasher = some { acc := v, mreg := h.mreg } := rfl
@[simp] theorem State.writeAcc_inReset (s : State) (h : Hasher) (v : Word) : (s.writeAcc h v).inReset = s.inReset := rfl
@[simp] theorem State.writeAcc_rspPort (s : State) (h : Hasher) (v : Word) : (s.writeAcc h v).rspPort = s.rspPort := rfl
@[simp] theorem State.writeAcc_input (s : State) (h : Hasher) (v : Word) : (s.writeAcc h v).input = s.input := rfl
@[simp] theorem State.writeAcc_delivered (s : State) (h : Hasher) (v : Word) : (s.writeAcc h v).delivered = s.delivered := rfl

@[simp] theorem State.clear_cfg (s : State) : (s.clear).cfg = s.cfg := rfl
@[simp] theorem State.clear_hasher (s : State) : (s.clear).hasher = none := rfl
@[simp] theorem State.clear_inReset (s : State) : (s.clear).inReset = s.inReset := rfl
@[simp] theorem State.clear_rspPort (s : State) : (s.clear).rspPort = [] := rfl
@[simp] theorem State.clear_input (s : State) : (s.clear).input = s.input := rfl
@[simp] theorem State.clear_delivered (s : State) : (s.clear).delivered = s.delivered := rfl

@[simp] theorem State.dropEvent_cfg (s : State) : (s.dropEvent).cfg = s.cfg := rfl
@[simp] theorem State.dropEvent_hasher (s : State) : (s.dropEvent).hasher = s.hasher := rfl
@[simp] theorem State.dropEvent_inReset (s : State) : (s.dropEvent).inReset = s.inReset := rfl
@[simp] theorem State.dropEvent_rspPort (s : State) : (s.dropEvent).rspPort = s.rspPort := rfl
@[simp] theorem State.dropEvent_input (s : State) : (s.dropEvent).input = s.input.tail := rfl
@[simp] theorem State.dropEvent_delivered (s : State) : (s.dropEvent).delivered = s.delivered := rfl

@[simp] theorem State.assertReset_cfg (s : State) : (s.assertReset).cfg = s.cfg := rfl
@[simp] theorem State.assertReset_hasher (s : State) : (s.assertReset).hasher = none := rfl
@[simp] theorem State.assertReset_inReset (s : State) : (s.assertReset).inReset = true := rfl
@[simp] theorem State.assertReset_rspPort (s : State) : (s.assertReset).rspPort = [] := rfl
@[simp] theorem State.assertReset_input (s : State) : (s.assertReset).input = s.input := rfl
@[simp] theorem State.assertReset_delivered (s : State) : (s.assertReset).delivered = s.delivered := rfl

@[simp] theorem State.offer_cfg (s : State) (cmd : CmdWord) : (s.offer cmd).cfg = s.cfg := rfl
@[simp] theorem State.offer_hasher (s : State) (cmd : CmdWord) : (s.offer cmd).hasher = s.hasher := rfl
@[simp] theorem State.offer_inReset (s : State) (cmd : CmdWord) : (s.offer cmd).inReset = false := rfl
@[simp] theorem State.offer_rspPort (s : State) (cmd : CmdWord) : (s.offer cmd).rspPort = s.rspPort := rfl
@[simp] theorem State.offer_input (s : State) (cmd : CmdWord) : (s.offer cmd).input = .command cmd :: s.input := rfl
@[simp] theorem State.offer_delivered (s : State) (cmd : CmdWord) : (s.offer cmd).delivered = s.delivered := rfl

@[simp] theorem State.releaseReset_of_inReset (s : State) (h : s.inReset = true) :
    s.releaseReset = { s.clear with inReset := false } := by simp [State.releaseReset, h]

@[simp] theorem State.releaseReset_of_released (s : State) (h : s.inReset = false) : s.releaseReset = s := by
  simp [State.releaseReset, h]

@[simp] theorem State.deliver_of_empty (s : State) (h : s.rspPort = []) : s.deliver = s := by
  simp [State.deliver, h]

@[simp] theorem State.deliver_of_cons (s : State) (r : Response) (rest : List Response) (h : s.rspPort = r :: rest) :
    s.deliver = { s with rspPort := rest, delivered := s.delivered ++ [r.encode s.cfg.width] } := by
  simp [State.deliver, h]

@[simp] theorem State.valid_eq_true (s : State) : s.valid = true ↔ ∃ h, s.hasher = some h := by
  simp [State.valid, Option.isSome_iff_exists]

@[simp] theorem State.valid_eq_false (s : State) : s.valid = false ↔ s.hasher = none := by
  simp [State.valid]

end Sys2Proof.Machine
end

