-- ==== Sys2Proof/Laws/Ops.lean ====
section
/-! SUPPORT. For each shared operation, once, everything it can do. -/

namespace Sys2Proof.Machine

/-- The carrier holds every Word of the build without loss. -/
theorem Width.pow_bits_le (w : Width) : 2 ^ w.bits ≤ 2 ^ 64 := by cases w <;> simp [Width.bits]

/-- Of two Words, the high half of the product is the quotient. -/
theorem wmul_high_toNat {w : Width} {a b : Word} (ha : a.fits w = true) (hb : b.fits w = true) :
    (wmul w a b).1.toNat = a.toNat * b.toNat / 2 ^ w.bits := by
  rw [Word.fits_iff] at ha hb
  have hlt : a.toNat * b.toNat / 2 ^ w.bits < 2 ^ w.bits :=
    Nat.div_lt_of_lt_mul (Nat.mul_lt_mul'' ha hb)
  simpa [wmul] using Nat.mod_eq_of_lt (hlt.trans_le (Width.pow_bits_le w))

/-- The low half of a product is the remainder. -/
theorem wmul_low_toNat (w : Width) (a b : Word) : (wmul w a b).2.toNat = a.toNat * b.toNat % 2 ^ w.bits := by
  have hlt : a.toNat * b.toNat % 2 ^ w.bits < 2 ^ w.bits := Nat.mod_lt _ (by positivity)
  simpa [wmul] using Nat.mod_eq_of_lt (hlt.trans_le (Width.pow_bits_le w))

theorem complete_eq_next (s : State) (r1 r0 : Word) : complete s r1 r0 = .next (s.respond .ok r1 r0) := rfl

theorem raise_eq_next (e : ErrorKind) (s : State) : raise e s = .next (s.respond e.status 0 0) := rfl

theorem withHasher_of_some {s : State} {h : Hasher} (hs : s.hasher = some h)
    (k : Hasher → Host.Outcome State Fault Refusal) : withHasher s k = k h := by simp [withHasher, hs]

theorem withHasher_of_none {s : State} (hs : s.hasher = none) (k : Hasher → Host.Outcome State Fault Refusal) :
    withHasher s k = .next (s.respond .noInstance 0 0) := by
  simp [withHasher, hs, raise, ErrorKind.status]

/-- ValidM in the spec's words (00_scope R4). -/
theorem validM_iff (c : Config) (m : Word) :
    validM c m = true ↔ ∃ p, c.pMin ≤ p ∧ p ≤ c.pMax ∧ m.toNat = 2 ^ p - 1 := by
  simp only [validM, List.any_eq_true, List.mem_range, Nat.lt_succ_iff, Bool.and_eq_true, decide_eq_true_eq]
  exact ⟨fun ⟨p, hp, hmin, hm⟩ => ⟨p, hmin, hp, hm⟩, fun ⟨p, hmin, hp, hm⟩ => ⟨p, hp, hmin, hm⟩⟩

theorem withConstant_of_valid {s : State} {m : Word} (hm : validM s.cfg m = true)
    (k : Host.Outcome State Fault Refusal) : withConstant s m k = k := by simp [withConstant, hm]

theorem withConstant_of_invalid {s : State} {m : Word} (hm : validM s.cfg m = false)
    (k : Host.Outcome State Fault Refusal) : withConstant s m k = .next (s.respond .invalidConstant 0 0) := by
  simp [withConstant, hm, raise, ErrorKind.status]

end Sys2Proof.Machine
end

