-- ==== Sys2Proof/Laws/PerInstr.lean ====
section
/-! SUPPORT. The family EncodingOfOp: every command of a build encodes to a CW-bit word whose OP field is its row's
(spec/30_encoding.md R50, R56). -/

namespace Sys2Proof.Laws.EncodingOfOp

/-- The command word has CW bits and its low three bits are the opcode of the table (30_encoding R50, R56). -/
def Statement (i : Instr) : Prop :=
  ∀ w : Width, i.wf w = true → (encode w i).fits w = true ∧ (encode w i).toNat % 8 = i.opcode

/-- What every constructor's lemma cites: its two operand fields are Words. -/
theorem of_fields {i : Instr} (hop : i.opcode < 8)
    (hf : ∀ w : Width, i.wf w = true → i.operandA.fits w = true ∧ i.operandB.fits w = true) : Statement i := by
  intro w hi
  obtain ⟨ha, hb⟩ := hf w hi
  refine ⟨packCommand_fits hop ha hb, ?_⟩
  rw [encode, packCommand_toNat hop ha hb]
  cases w <;> simp only [Width.bits] <;> omega

theorem zero_fits (w : Width) : Word.fits w 0 = true := by cases w <;> decide

theorem wmul (a b : Word) : Statement (.wmul a b) :=
  of_fields (by simp [Instr.opcode]) fun w h => by simpa [Instr.wf, Instr.operandA, Instr.operandB] using h

theorem construct (seed m : Word) : Statement (.construct seed m) :=
  of_fields (by simp [Instr.opcode]) fun w h => by simpa [Instr.wf, Instr.operandA, Instr.operandB] using h

theorem absorb (word : Word) : Statement (.absorb word) :=
  of_fields (by simp [Instr.opcode]) fun w h => ⟨h, zero_fits w⟩

theorem current : Statement .current :=
  of_fields (by simp [Instr.opcode]) fun w _ => ⟨zero_fits w, zero_fits w⟩

theorem reset (seed : Word) : Statement (.reset seed) :=
  of_fields (by simp [Instr.opcode]) fun w h => ⟨h, zero_fits w⟩

theorem hash (word m : Word) : Statement (.hash word m) :=
  of_fields (by simp [Instr.opcode]) fun w h => by simpa [Instr.wf, Instr.operandA, Instr.operandB] using h

theorem reserved6 : Statement .reserved6 :=
  of_fields (by simp [Instr.opcode]) fun w _ => ⟨zero_fits w, zero_fits w⟩

theorem reserved7 : Statement .reserved7 :=
  of_fields (by simp [Instr.opcode]) fun w _ => ⟨zero_fits w, zero_fits w⟩

end Sys2Proof.Laws.EncodingOfOp
end

