-- ==== Sys2Proof/Laws/Response.lean ====
section
/-! SUPPORT. The number of an encoded response word. -/

namespace Sys2Proof.Machine

theorem Status.code_lt (st : Status) : st.code < 4 := by cases st <;> decide

/-- An encoded response loses no bit. -/
theorem Response.encode_toNat {w : Width} {r : Response} (h1 : r.r1.fits w = true) (h0 : r.r0.fits w = true) :
    (r.encode w).toNat = r.r1.toNat * 2 ^ (w.bits + 2) + r.r0.toNat * 2 ^ 2 + r.st.code := by
  have hc := Status.code_lt r.st
  rw [Word.fits_iff] at h1 h0
  rw [Response.encode, BitVec.toNat_ofNat]
  apply Nat.mod_eq_of_lt
  cases w <;> simp only [Width.bits] at h1 h0 ⊢ <;> omega

end Sys2Proof.Machine
end

