-- ==== Sys2Proof/Tests/Slice0.lean ====
section
/-! SUPPORT. Tests. Expected values are the spec's: the worked encodings of spec/30_encoding.md section 8 ("E8"), and the
vectors and programs of spec/95_test_vectors.md, named by their ids there. The last part gives, for every statement that
has hypotheses, a concrete case that meets them all. -/

namespace Sys2Proof.Tests

open Sys2Proof.Machine

/-! ### Small states -/

/-- The build of width `w` after hard reset. -/
def fresh (w : Width) : State := { State.reset with cfg := Config.ofWidth w }

/-- The build of width `w` holding a hasher. -/
def holding (w : Width) (acc m : Word) : State := { fresh w with hasher := some { acc := acc, mreg := m } }

/-- The hasher and the responses a next state holds. -/
def seen : Host.Outcome State Fault Refusal → Option (Option Hasher × List Response)
  | .next t => some (t.hasher, t.rspPort)
  | .fault _ => none
  | .refused _ => none

/-- The response words delivered in a next state. -/
def taken : Host.Outcome State Fault Refusal → Option (List RspWord)
  | .next t => some t.delivered
  | .fault _ => none
  | .refused _ => none

/-! ### WellFormed: an ill-formed term for each check -/

theorem test_wf_refuses_wide_operands :
    Instr.wf .w32 (.wmul 0x100000000 0) = false ∧ Instr.wf .w32 (.wmul 0 0x100000000) = false ∧
      Instr.wf .w32 (.construct 0x100000000 1) = false ∧ Instr.wf .w32 (.construct 0 0x100000000) = false ∧
      Instr.wf .w32 (.absorb 0x100000000) = false ∧ Instr.wf .w32 (.reset 0x100000000) = false ∧
      Instr.wf .w32 (.hash 0x100000000 1) = false ∧ Instr.wf .w32 (.hash 0 0x100000000) = false := by decide

theorem test_wf_accepts_words :
    Instr.wf .w32 (.wmul 0xFFFFFFFF 0xFFFFFFFF) = true ∧ Instr.wf .w64 (.wmul 0x100000000 0) = true := by decide

theorem test_config_wf_refuses :
    Config.wf { width := .w64, pMin := 2, pMax := 1 } = false ∧
      Config.wf { width := .w32, pMin := 1, pMax := 33 } = false ∧ Config.default.wf = true := by decide

theorem test_command_word_fits :
    CmdWord.fits .w32 0x7FFFFFFFFFFFFFFFF = true ∧ CmdWord.fits .w32 0x80000000000000000 = false := by decide

theorem test_response_word_fits :
    RspWord.fits .w32 0x3FFFFFFFFFFFFFFFF = true ∧ RspWord.fits .w32 0x40000000000000000 = false := by decide

theorem test_response_wf_refuses :
    Response.wf .w64 { st := .noInstance, r1 := 0, r0 := 1 } = false ∧
      Response.wf .w64 { st := .illegalCommand, r1 := 1, r0 := 0 } = false ∧
      Response.wf .w32 { st := .ok, r1 := 0, r0 := 0x100000000 } = false ∧
      Response.wf .w32 { st := .ok, r1 := 0x100000000, r0 := 0 } = false := by decide

/-! ### Decoding: words written out by the spec, one at least for each constructor -/

theorem test_decode_wmul : decode .w32 0x7FFFFFFFFFFFFFFF8 = .ok (.wmul 0xFFFFFFFF 0xFFFFFFFF) := by decide  -- E8
theorem test_decode_wmul_w64 : decode .w64 0x140000000000000000 = .ok (.wmul 0x8000000000000000 2) := by decide  -- P3.3
theorem test_decode_construct : decode .w32 0x3FFFFFFF800000001 = .ok (.construct 0 0x7FFFFFFF) := by decide  -- E8
theorem test_decode_construct_seed :
    decode .w64 0x3FFFFFFF800000003FFFFFFF9 = .ok (.construct 0x7FFFFFFF 0x7FFFFFFF) := by decide  -- P3.14
theorem test_decode_absorb : decode .w32 0x91A2B3C2 = .ok (.absorb 0x12345678) := by decide  -- E8
theorem test_decode_current : decode .w64 0x3 = .ok .current := by decide  -- E8
theorem test_decode_reset : decode .w64 0xFFFFFFFFFFFFFFFC = .ok (.reset 0x1FFFFFFFFFFFFFFF) := by decide  -- P4.10
theorem test_decode_hash : decode .w32 0x3FFFFFFFEF56DF77D = .ok (.hash 0xDEADBEEF 0x7FFFFFFF) := by decide  -- E8
theorem test_decode_hash_w64 :
    decode .w64 0xFFFFFFFFFFFFFFFEF56DF77E57F5D5F5 = .ok (.hash 0xDEADBEEFCAFEBABE 0x1FFFFFFFFFFFFFFF) := by
  decide  -- P3.4
theorem test_decode_reserved6 : decode .w64 0x2B3C000000000000091A6 = .ok .reserved6 := by decide  -- P3.12
theorem test_decode_reserved7 : decode .w32 0x7FFFFFFFFFFFFFFFF = .ok .reserved7 := by decide  -- R51, R56
/-- R58: a non-zero ignored field is not an error; B = 1, A = 0x12345678, OP = 2 at W = 32. -/
theorem test_decode_drops_ignored_field : decode .w32 0x891A2B3C2 = .ok (.absorb 0x12345678) := by decide
theorem test_decode_refuses_wide_word : decode .w32 0x80000000000000000 = .error .notCwBits := by decide

theorem test_encode_construct : encode .w64 (.construct 0 0x7FFFFFFF) = 0x3FFFFFFF80000000000000001 := by decide  -- E8
theorem test_encode_wmul_w64 :
    encode .w64 (.wmul 0xFFFFFFFFFFFFFFFF 0xFFFFFFFFFFFFFFFF) = 0x7FFFFFFFFFFFFFFFFFFFFFFFFFFFFFFF8 := by
  decide  -- E8

theorem test_decode_table_words :
    decodeTableWord 8 0 = some (.wmul 0 0) ∧ decodeTableWord 8 1 = some (.construct 0 0) ∧
      decodeTableWord 8 2 = some (.absorb 0) ∧ decodeTableWord 8 3 = some .current ∧
      decodeTableWord 8 4 = some (.reset 0) ∧ decodeTableWord 8 5 = some (.hash 0 0) ∧
      decodeTableWord 8 6 = some .reserved6 ∧ decodeTableWord 8 7 = some .reserved7 := by decide

/-! ### Response words (E8) -/

theorem test_response_word_wmul :
    Response.encode .w32 { st := .ok, r1 := 0xFFFFFFFE, r0 := 1 } = 0x3FFFFFFF800000004 := by decide
theorem test_response_word_wmul_w64 :
    Response.encode .w64 { st := .ok, r1 := 0xFFFFFFFFFFFFFFFE, r0 := 1 } = 0x3FFFFFFFFFFFFFFF80000000000000004 := by
  decide
theorem test_response_word_errors :
    Response.encode .w64 { st := .invalidConstant, r1 := 0, r0 := 0 } = 0x1 ∧
      Response.encode .w32 { st := .noInstance, r1 := 0, r0 := 0 } = 0x2 ∧
      Response.encode .w64 { st := .illegalCommand, r1 := 0, r0 := 0 } = 0x3 := by decide
theorem test_response_word_current : Response.encode .w32 { st := .ok, r1 := 0, r0 := 4 } = 0x10 := by decide

/-! ### ValidM (95_test_vectors section 5) -/

theorem test_validM_w32 :
    validM (Config.ofWidth .w32) 0 = false ∧ validM (Config.ofWidth .w32) 1 = true ∧
      validM (Config.ofWidth .w32) 6 = false ∧ validM (Config.ofWidth .w32) 0x7FF = true ∧
      validM (Config.ofWidth .w32) 0x7FFFFFFF = true ∧ validM (Config.ofWidth .w32) 0xFFFFFFFF = false := by decide
theorem test_validM_w64 :
    validM Config.default 0x7FFFFFFE = false ∧ validM Config.default 0xFFFFFFFF = true ∧
      validM Config.default 0x7FFFFFFFFFFFFFFF = true ∧ validM Config.default 0xFFFFFFFFFFFFFFFF = false := by decide

/-! ### One command on a small state -/

/-- M32.11 and M64.11 -/
theorem test_wmul :
    wmul .w32 0x12345678 0x9ABCDEF0 = (0x0B00EA4E, 0x242D2080) ∧
      wmul .w64 0x123456789ABCDEF0 0xFEDCBA987654321 = (0x121FA00AD77D742, 0x2236D88FE5618CF0) := by decide
/-- M32.15: no ValidM check, no hasher needed -/
theorem test_wmul_without_hasher : seen (exec (.wmul 0xDEADBEEF 6) (fresh .w32)) =
    some (none, [{ st := .ok, r1 := 5, r0 := 0x3812799A }]) := by decide
/-- X6: a new hasher replaces the old one -/
theorem test_construct_replaces : seen (exec (.construct 2 3) (holding .w32 9 7)) =
    some (some { acc := 2, mreg := 3 }, [{ st := .ok, r1 := 0, r0 := 0 }]) := by decide
/-- X5: a failed CONSTRUCT leaves the hasher as it was -/
theorem test_construct_invalid : seen (exec (.construct 0 6) (holding .w32 9 7)) =
    some (some { acc := 9, mreg := 7 }, [{ st := .invalidConstant, r1 := 0, r0 := 0 }]) := by decide
/-- X9 -/
theorem test_absorb_w32 : seen (exec (.absorb 0x80000009) (holding .w32 9 7)) =
    some (some { acc := 3, mreg := 7 }, [{ st := .ok, r1 := 0, r0 := 0 }]) := by decide
/-- S13 -/
theorem test_absorb_w64 : seen (exec (.absorb 0xDEADBEEFCAFEBABE) (holding .w64 0 0x1FFFFFFFFFFFFFFF)) =
    some (some { acc := 0x1BD5B7DDF95FD756, mreg := 0x1FFFFFFFFFFFFFFF }, [{ st := .ok, r1 := 0, r0 := 0 }]) := by decide
/-- X8 -/
theorem test_current : seen (exec .current (holding .w32 9 7)) =
    some (some { acc := 9, mreg := 7 }, [{ st := .ok, r1 := 0, r0 := 9 }]) := by decide
/-- X2 -/
theorem test_current_without_hasher : seen (exec .current (fresh .w64)) =
    some (none, [{ st := .noInstance, r1 := 0, r0 := 0 }]) := by decide
/-- X7 -/
theorem test_reset : seen (exec (.reset 0xFFFFFFFF) (holding .w32 9 7)) =
    some (some { acc := 0xFFFFFFFF, mreg := 7 }, [{ st := .ok, r1 := 0, r0 := 0 }]) := by decide
/-- X3: RESET makes no hasher -/
theorem test_reset_without_hasher : seen (exec (.reset 0) (fresh .w32)) =
    some (none, [{ st := .noInstance, r1 := 0, r0 := 0 }]) := by decide
/-- H13 -/
theorem test_hash : seen (exec (.hash 0xDEADBEEFCAFEBABE 0x1FFFFFFFFFFFFFFF) (fresh .w64)) =
    some (none, [{ st := .ok, r1 := 0, r0 := 0xFA87F6CDCC5E9214 }]) := by decide
/-- 95_test_vectors section 4, error vectors -/
theorem test_hash_invalid : seen (exec (.hash 5 0xFFFFFFFF) (holding .w32 9 7)) =
    some (some { acc := 9, mreg := 7 }, [{ st := .invalidConstant, r1 := 0, r0 := 0 }]) := by decide
/-- P3.12 -/
theorem test_reserved6 : seen (exec .reserved6 (holding .w64 9 7)) =
    some (some { acc := 9, mreg := 7 }, [{ st := .illegalCommand, r1 := 0, r0 := 0 }]) := by decide
theorem test_reserved7 : seen (exec .reserved7 (fresh .w64)) =
    some (none, [{ st := .illegalCommand, r1 := 0, r0 := 0 }]) := by decide

/-! ### Sequences (S1, S7, S21, S12) and one step at the ports -/

theorem test_absorbSeq :
    absorbSeq .w32 0 0x7FFFFFFF [1, 2, 3] = 1 ∧ absorbSeq .w64 0 0x7FFFFFFF [1, 2, 3] = 0 ∧
      absorbSeq .w32 0 0x1FFF [0xDEADBEEF, 0xCAFEBABE] = 0x195F ∧
      absorbSeq .w64 0x1FFFFFFFFFFFFFFF 0x1FFFFFFFFFFFFFFF [0x0123456789ABCDEF, 0xFEDCBA9876543210] =
        0x1FA0E5B96F13D689 := by decide

/-- The first step after reset runs the word placed for it. -/
theorem test_step_runs_placed_word :
    seen (step (State.reset.withFetchWord 8 1)) = some (none, [{ st := .invalidConstant, r1 := 0, r0 := 0 }]) := by decide

/-- R130: hard reset ends the hasher and drops the undelivered response. -/
theorem test_step_assertReset :
    seen (step { holding .w64 9 7 with
      input := [.assertReset], rspPort := [{ st := .ok, r1 := 0, r0 := 9 }] }) = some (none, []) := by decide

/-- P3.4: the response word the host takes. -/
theorem test_step_takeResponse :
    taken (step { fresh .w64 with
      input := [.takeResponse], rspPort := [{ st := .ok, r1 := 0, r0 := 0xFA87F6CDCC5E9214 }] }) =
      some [0x3EA1FDB37317A4850] := by decide

/-- What is no command word of the build is refused (log 6). -/
theorem test_step_refuses_wide_word :
    step { fresh .w32 with input := [.command 0x80000000000000000] } = .refused .notACommandWord := by rfl

/-! ### The assembler (30_encoding R61 to R64) -/

theorem test_parse_construct : parseLine "CONSTRUCT 0, 0x7FFFFFFF # -> OK".toList =
    some (some (.construct (some 0) 0x7FFFFFFF)) := by decide
theorem test_parse_pseudo :
    parseLine "ABSORBALL".toList = some (some (.absorbAll [])) ∧
      parseLine "ABSORBALL 1, 0x2".toList = some (some (.absorbAll [1, 2])) ∧
      parseLine "FINALIZE".toList = some (some .finalize) ∧ parseLine "RESET".toList = some (some (.reset none)) ∧
      parseLine "  # a comment".toList = some none := by decide
theorem test_parse_errors :
    parseLine "absorb 1".toList = none ∧ parseLine "ABSORB".toList = none ∧ parseLine "ABSORB 1F".toList = none ∧
      parseLine "WMUL 1".toList = none := by decide
theorem test_parse_hex_letters :
    parseLine "HASH 0xDEADBEEF, 0x7fffffff".toList = some (some (.hash 0xDEADBEEF 0x7FFFFFFF)) ∧
      parseLine "ABSORB 0xG".toList = none := by decide
/-- E8 -/
theorem test_assemble_hash :
    assembleWords .w32 (.hash 0xDEADBEEF 0x7FFFFFFF) = some [0x3FFFFFFFEF56DF77D] := by decide
theorem test_assemble_rejects_wide_literal : assemble .w32 (.absorb 0x100000000) = none := by decide
/-- P2.4 and R64 -/
theorem test_assemble_reset_without_seed : assembleWords .w32 (.reset none) = some [0x4] := by decide
/-- P1.6 -/
theorem test_assemble_finalize : assembleWords .w32 .finalize = some [0x3] := by decide
/-- R58: the non-zero ignored field is what the comment shows -/
theorem test_disassemble : disassemble .w32 0x891A2B3C2 = some (.absorb 0x12345678, [1]) := by decide

/-! ### Witnesses: for each statement with hypotheses, a case that meets them all -/

/-- A word that is no valid constant, in the words of the statements. -/
theorem not_run_of_ones {c : Config} {m : Word} (h : validM c m = false) (p : Nat) (hmin : c.pMin ≤ p)
    (hmax : p ≤ c.pMax) : m.toNat ≠ 2 ^ p - 1 := by
  intro hm
  rw [(validM_iff c m).2 ⟨p, hmin, hmax, hm⟩] at h
  cases h

theorem holding_inv {w : Width} {acc m : Word} (hc : (Config.ofWidth w).wf = true)
    (h : Hasher.wf (Config.ofWidth w) { acc := acc, mreg := m } = true) : (holding w acc m).Inv where
  cfg_wf := hc
  hasher_wf := by rintro k ⟨⟩; exact h
  reset_clear := by simp [holding, fresh, State.reset]
  port_wf := by simp [holding, fresh, State.reset]
  delivered_wf := by simp [holding, fresh, State.reset]

/-- The same state with something for the host to do still meets the invariant. -/
theorem inv_with_input {s : State} (h : s.Inv) (evs : List HostEvent) : State.Inv { s with input := evs } :=
  ⟨h.cfg_wf, h.hasher_wf, h.reset_clear, h.port_wf, h.delivered_wf⟩

theorem test_witness_StepKeepsInvariant :
    State.Inv { holding .w32 9 7 with input := [.command 0x42] } ∧
      ∃ t, step { holding .w32 9 7 with input := [.command 0x42] } = .next t :=
  ⟨inv_with_input (holding_inv (by decide) (by decide)) _, _, rfl⟩

theorem test_witness_DecodeInvertsEncode :
    Instr.wf .w32 (.hash 0xFFFFFFFF 0xFFFFFFFF) = true ∧
      Instr.wf .w64 (.construct 0xFFFFFFFFFFFFFFFF 0xFFFFFFFFFFFFFFFF) = true := by decide

theorem test_witness_EveryCommandWordDecodes :
    (0x7FFFFFFFFFFFFFFFF : CmdWord).toNat < 2 ^ (2 * Width.w32.bits + 3) ∧
      ¬ (0x80000000000000000 : CmdWord).toNat < 2 ^ (2 * Width.w32.bits + 3) := by decide

theorem test_witness_DecoderReadsThreeFields :
    (0x7FFFFFFFFFFFFFFFF : CmdWord).toNat < 2 ^ (2 * Width.w32.bits + 3) ∧
      (0x7FFFFFFFFFFFFFFFFFFFFFFFFFFFFFFFF : CmdWord).toNat < 2 ^ (2 * Width.w64.bits + 3) := by decide

/-- One pair of words for each clause: ABSORB, RESET, CURRENT and the two reserved opcodes. -/
theorem test_witness_IgnoredFieldsHaveNoEffect :
    (fieldOp 0x891A2B3C2 = fieldOp 0x91A2B3C2 ∧ (fieldOp 0x891A2B3C2).toNat = 2 ∧
      fieldA .w32 0x891A2B3C2 = fieldA .w32 0x91A2B3C2) ∧
    (fieldOp 0x80000002C = fieldOp 0x2C ∧ (fieldOp 0x80000002C).toNat = 4 ∧
      fieldA .w32 0x80000002C = fieldA .w32 0x2C) ∧
    (fieldOp 0xB = fieldOp 0x3 ∧ (fieldOp 0xB).toNat = 3) ∧
    (fieldOp 0xE = fieldOp 0x6 ∧ (fieldOp 0xE).toNat = 6) ∧ (fieldOp 0xF = fieldOp 0x7 ∧ (fieldOp 0xF).toNat = 7) ∧
    CmdWord.fits .w32 0x891A2B3C2 = true ∧ CmdWord.fits .w32 0x80000002C = true ∧ CmdWord.fits .w32 0xF = true := by
  decide

theorem test_witness_ResponseWordHoldsThreeFields :
    (0xFFFFFFFF : Word).toNat < 2 ^ Width.w32.bits ∧ (0xFFFFFFFFFFFFFFFF : Word).toNat < 2 ^ Width.w64.bits := by decide

theorem test_witness_StepRunsAcceptedCommand :
    ((fresh .w32).offer 0x91A2B3C2).input = [.command 0x91A2B3C2] ∧ ((fresh .w32).offer 0x91A2B3C2).inReset = false ∧
      decode ((fresh .w32).offer 0x91A2B3C2).cfg.width 0x91A2B3C2 = .ok (.absorb 0x12345678) := by decide

theorem test_witness_IdleStepHoldsState :
    State.reset.input = [] ∧ ({ fresh .w64 with input := [.idle] } : State).input = .idle :: [] := by decide

/-- Both clauses: a response waiting, and an empty port. -/
theorem test_witness_HostTakesOldestResponse :
    ({ fresh .w64 with input := [.takeResponse], rspPort := [{ st := .ok, r1 := 0, r0 := 4 }] } : State).rspPort =
        { st := .ok, r1 := 0, r0 := 4 } :: [] ∧
      ({ fresh .w64 with input := [.takeResponse] } : State).rspPort = [] := by decide

theorem test_witness_HardResetClearsTheBlock :
    (∀ e ∈ [HostEvent.command 3, .takeResponse, .idle], e ≠ .assertReset ∧ e ≠ .releaseReset) ∧
      ({ holding .w64 9 7 with input := [.assertReset, .command 3, .takeResponse, .idle, .releaseReset] } : State).input =
        .assertReset :: ([.command 3, .takeResponse, .idle] ++ .releaseReset :: []) := by decide

theorem test_witness_RunNeverStops :
    State.offersFit { fresh .w32 with input := [.command 0x7FFFFFFFFFFFFFFFF, .assertReset, .takeResponse] } := by
  intro cmd h
  have : cmd = 0x7FFFFFFFFFFFFFFFF := by simpa using h
  subst this
  decide

theorem test_witness_ParametersNeverChange : ∃ t, step { fresh .w32 with input := [.assertReset] } = .next t := ⟨_, rfl⟩

/-- The least and the greatest valid exponent of both builds. -/
theorem test_witness_ConstructMakesHasher :
    ((fresh .w64).cfg.pMin ≤ 1 ∧ 1 ≤ (fresh .w64).cfg.pMax ∧ (1 : Word).toNat = 2 ^ 1 - 1) ∧
      ((fresh .w64).cfg.pMin ≤ 63 ∧ 63 ≤ (fresh .w64).cfg.pMax ∧ (0x7FFFFFFFFFFFFFFF : Word).toNat = 2 ^ 63 - 1) ∧
      ((fresh .w32).cfg.pMin ≤ 31 ∧ 31 ≤ (fresh .w32).cfg.pMax ∧ (0x7FFFFFFF : Word).toNat = 2 ^ 31 - 1) := by decide

theorem test_witness_InvalidConstantChangesNothing :
    (∀ p, (holding .w32 9 7).cfg.pMin ≤ p → p ≤ (holding .w32 9 7).cfg.pMax → (0xFFFFFFFF : Word).toNat ≠ 2 ^ p - 1) ∧
      ∀ p, (fresh .w64).cfg.pMin ≤ p → p ≤ (fresh .w64).cfg.pMax → (6 : Word).toNat ≠ 2 ^ p - 1 :=
  ⟨not_run_of_ones (by decide), not_run_of_ones (by decide)⟩

theorem test_witness_AbsorbUpdatesAccumulator : (holding .w32 9 7).hasher = some { acc := 9, mreg := 7 } := by decide
theorem test_witness_CurrentAnswersAccumulator : (holding .w64 9 7).hasher = some { acc := 9, mreg := 7 } := by decide
theorem test_witness_ResetLoadsSeed : (holding .w64 4 0x7FFFFFFF).hasher = some { acc := 4, mreg := 0x7FFFFFFF } := by
  decide

theorem test_witness_HashFoldsProduct :
    (fresh .w64).cfg.pMin ≤ 61 ∧ 61 ≤ (fresh .w64).cfg.pMax ∧ (0x1FFFFFFFFFFFFFFF : Word).toNat = 2 ^ 61 - 1 := by decide

theorem test_witness_ReservedOpcodeIsIllegal :
    ((fresh .w64).offer 0x2B3C000000000000091A6).input = .command 0x2B3C000000000000091A6 :: [] ∧
      ((fresh .w64).offer 0x2B3C000000000000091A6).inReset = false ∧
      (0x2B3C000000000000091A6 : CmdWord).toNat < 2 ^ (2 * (fresh .w64).cfg.width.bits + 3) ∧
      (0x2B3C000000000000091A6 : CmdWord).toNat % 8 = 6 ∧ (0x7 : CmdWord).toNat % 8 = 7 := by decide

theorem test_witness_NoHasherNoInstance : (fresh .w32).valid = false ∧ State.reset.valid = false := by decide

/-- A command for each clause: any, one that is no CONSTRUCT, one that writes nothing. -/
theorem test_witness_CommandsKeepRegisters :
    (∃ t, exec (.construct 2 3) (holding .w32 9 7) = .next t) ∧ (∃ t, exec (.absorb 1) (holding .w32 9 7) = .next t) ∧
      (∃ t, exec .current (holding .w32 9 7) = .next t) ∧ (holding .w32 9 7).valid = true :=
  ⟨⟨_, rfl⟩, ⟨_, rfl⟩, ⟨_, rfl⟩, by decide⟩

theorem test_witness_OnlyHardResetEndsHasher :
    ∃ t, State.Inv { holding .w32 9 7 with input := [.assertReset] } ∧
      step { holding .w32 9 7 with input := [.assertReset] } = .next t ∧
      State.valid { holding .w32 9 7 with input := [.assertReset] } = true ∧ t.valid = false :=
  ⟨_, inv_with_input (holding_inv (by decide) (by decide)) _, rfl, by decide, by decide⟩

/-- P1.0: from no hasher, and from a hasher with another constant. -/
theorem test_witness_OnlyConstructInstallsConstant :
    (∃ t, step ((fresh .w32).offer 0x3FFFFFFF800000001) = .next t ∧ t.hasher = some { acc := 0, mreg := 0x7FFFFFFF } ∧
      ((fresh .w32).offer 0x3FFFFFFF800000001).hasher = none) ∧
    ∃ t, step ((holding .w32 9 7).offer 0x3FFFFFFF800000001) = .next t ∧
      t.hasher = some { acc := 0, mreg := 0x7FFFFFFF } ∧ (7 : Word) ≠ 0x7FFFFFFF :=
  ⟨⟨_, rfl, by decide, by decide⟩, _, rfl, by decide, by decide⟩

theorem test_witness_PureUnitsIgnoreState :
    (fresh .w32).cfg = (holding .w32 9 7).cfg ∧ fresh .w32 ≠ holding .w32 9 7 := by decide

theorem test_witness_ValidConstantIsRunOfOnes :
    (0xFFFFFFFF : Word).toNat < 2 ^ Width.w32.bits ∧ (0 : Word).toNat < 2 ^ Width.w64.bits := by decide

theorem test_witness_WideningMultiplyIsExact :
    (0xFFFFFFFF : Word).toNat < 2 ^ Width.w32.bits ∧ (0xFFFFFFFFFFFFFFFF : Word).toNat < 2 ^ Width.w64.bits := by decide

/-- The clauses of the laws with a condition: both operands all ones (M32.7), and the largest product with high = 0
(M32.10). -/
theorem test_witness_WideningMultiplyLaws :
    (0xFFFFFFFF : Word).toNat < 2 ^ Width.w32.bits ∧ (0xFFFFFFFF : Word).toNat = 2 ^ Width.w32.bits - 1 ∧
      (0xFFFF : Word).toNat * (0x10001 : Word).toNat < 2 ^ Width.w32.bits := by decide

/-- All four halves all ones, where the middle sum reaches its bound. -/
theorem test_witness_PartialProductsMakeProduct :
    2 * 16 = Width.w32.bits ∧ 0xFFFF < 2 ^ 16 ∧ (0xFFFFFFFF : Word).toNat = 0xFFFF * 2 ^ 16 + 0xFFFF ∧
      0xFFFF = 2 ^ 16 - 1 ∧ 2 * 32 = Width.w64.bits := by decide

/-- The least and the greatest exponent, and the word of all ones. -/
theorem test_witness_ShiftSubtractMakesProduct :
    (0xFFFFFFFF : Word).toNat < 2 ^ Width.w32.bits ∧ (0xFFFFFFFF : Word).toNat = 2 ^ Width.w32.bits - 1 ∧
      1 ≤ Width.w32.bits - 1 ∧ (1 : Word).toNat = 2 ^ 1 - 1 ∧ 31 ≤ Width.w32.bits - 1 ∧
      (0x7FFFFFFF : Word).toNat = 2 ^ 31 - 1 := by decide

/-- S16, S24 and S14: the three corner clauses. -/
theorem test_witness_AbsorbCornerCases :
    (holding .w64 0xAAAA 0x1FFFFFFFFFFFFFFF).Inv ∧ (0xAAAA : Word).toNat < 2 ^ Width.w64.bits ∧
      ((holding .w64 1 0x7FFFFFFFFFFFFFFF).Inv ∧
        ((1 : Word) ^^^ 0).toNat * (0x7FFFFFFFFFFFFFFF : Word).toNat < 2 ^ Width.w64.bits) ∧
      ((holding .w64 0xFFFFFFFFFFFFFFFF 0x1FFFFFFFFFFFFFFF).Inv ∧
        ((0xFFFFFFFFFFFFFFFF : Word) ^^^ 0).toNat = 2 ^ Width.w64.bits - 1) :=
  ⟨holding_inv (by decide) (by decide), by decide, ⟨holding_inv (by decide) (by decide), by decide⟩,
    holding_inv (by decide) (by decide), by decide⟩

/-- H9, H3, H4 and H7: the four corner clauses. -/
theorem test_witness_HashCornerCases :
    (fresh .w32).cfg.wf = true ∧ (0 : Word).toNat < 2 ^ Width.w32.bits ∧ (1 : Word).toNat = 2 ^ 1 - 1 ∧
      (0x12345678 : Word).toNat * (3 : Word).toNat < 2 ^ Width.w32.bits ∧ (3 : Word).toNat = 2 ^ 2 - 1 ∧
      (0xFFFFFFFF : Word).toNat = 2 ^ Width.w32.bits - 1 ∧ (0x7FFFFFFF : Word).toNat = 2 ^ 31 - 1 ∧
      31 ≤ (fresh .w32).cfg.pMax := by decide

theorem test_witness_SequenceHashIsAbsorbSeq :
    (fresh .w32).cfg.pMin ≤ 31 ∧ 31 ≤ (fresh .w32).cfg.pMax ∧ (0x7FFFFFFF : Word).toNat = 2 ^ 31 - 1 := by decide

/-- Every kind of silent command between, and none. -/
theorem test_witness_EmptySequenceHashesToSeed :
    validM (fresh .w64).cfg 0x7FFFFFFF = true ∧ (holding .w64 9 7).valid = true ∧
      (∀ i ∈ [Instr.current, .wmul 2 2, .hash 1 6, .construct 0 6, .reserved6, .reserved7],
        silent (fresh .w64).cfg i = true ∧ silent (holding .w64 9 7).cfg i = true) ∧
      ∀ i ∈ ([] : List Instr), silent (fresh .w64).cfg i = true := by decide

theorem test_witness_ResetReplaysLikeConstruct :
    (holding .w32 9 7).cfg = (fresh .w32).cfg ∧ (holding .w32 9 7).hasher = some { acc := 9, mreg := 7 } ∧
      validM (holding .w32 9 7).cfg 7 = true := by decide

/-- P4 steps 1 to 4: a CURRENT and a HASH inserted between two ABSORBs. -/
theorem test_witness_PeekingDoesNotPerturb :
    ∀ x ∈ [(false, Instr.absorb 4), (true, .current), (true, .hash 4 0x7FFFFFFF), (true, .construct 0 6),
      (true, .wmul 2 2), (true, .reserved6), (true, .reserved7), (false, .absorb 8)],
      x.1 = true → silent (holding .w32 9 7).cfg x.2 = true := by decide

theorem test_witness_HashIsAbsorbFoldedWithLow :
    validM (fresh .w64).cfg 0x1FFFFFFFFFFFFFFF = true ∧
      (0xDEADBEEFCAFEBABE : Word).toNat < 2 ^ (fresh .w64).cfg.width.bits := by decide

theorem test_witness_RunAgreesWithInterpreter :
    (∀ i ∈ [Instr.construct 0 0x7FFFFFFF, .absorb 4], i.wf (fresh .w32).cfg.width = true) ∧
      ({ fresh .w32 with input := [.command 0x3FFFFFFF800000001, .command 0x22] } : State).input =
        [Instr.construct 0 0x7FFFFFFF, .absorb 4].map (fun i => .command (encode .w32 i)) ++ [] := by decide

theorem test_witness_ResponsesDeliveredInOrder :
    (∀ i ∈ [Instr.current], i.wf (fresh .w32).cfg.width = true) ∧ (fresh .w32).rspPort = [] ∧
      ({ fresh .w32 with input := [.command 0x3, .takeResponse] } : State).input =
        [Instr.current].map (fun i => .command (encode .w32 i)) ++ List.replicate 1 .takeResponse := by decide

/-- The greatest literal of a build, a list of Words, a list with one literal too large, and a literal too large. -/
theorem test_witness_AssemblerExpandsPseudoInstructions :
    0 < 2 ^ Width.w32.bits ∧ 0xFFFFFFFF < 2 ^ Width.w32.bits ∧ 0xFFFFFFFFFFFFFFFF < 2 ^ Width.w64.bits ∧
      (∀ n ∈ [1, 0xFFFFFFFF], n < 2 ^ Width.w32.bits) ∧ (∃ n ∈ [1, 0x100000000], ¬ n < 2 ^ Width.w32.bits) ∧
      ¬ 0x100000000 < 2 ^ Width.w32.bits := by decide

end Sys2Proof.Tests
end

namespace Sys2Proof.Machine

/-! ### The check of a constant -/

theorem validM_eq_false_iff (c : Config) (m : Word) :
    validM c m = false ↔ ∀ p, c.pMin ≤ p → p ≤ c.pMax → m.toNat ≠ 2 ^ p - 1 := by
  simp [← Bool.not_eq_true, validM_iff]

/-! ### What each command does, in each of its cases -/

@[simp] theorem exec_wmul (a b : Word) (s : State) :
    exec (.wmul a b) s = .next (s.respond .ok (wmul s.cfg.width a b).1 (wmul s.cfg.width a b).2) := rfl

@[simp] theorem exec_construct_of_valid {s : State} {m : Word} (hm : validM s.cfg m = true) (seed : Word) :
    exec (.construct seed m) s = .next ((s.install seed m).respond .ok 0 0) :=
  withConstant_of_valid hm _

@[simp] theorem exec_construct_of_invalid {s : State} {m : Word} (hm : validM s.cfg m = false) (seed : Word) :
    exec (.construct seed m) s = .next (s.respond .invalidConstant 0 0) :=
  withConstant_of_invalid hm _

@[simp] theorem exec_absorb_of_some {s : State} {h : Hasher} (hs : s.hasher = some h) (word : Word) :
    exec (.absorb word) s =
      .next ((s.writeAcc h (absorbStep s.cfg.width h.acc h.mreg word)).respond .ok 0 0) :=
  withHasher_of_some hs _

@[simp] theorem exec_absorb_of_none {s : State} (hs : s.hasher = none) (word : Word) :
    exec (.absorb word) s = .next (s.respond .noInstance 0 0) :=
  withHasher_of_none hs _

@[simp] theorem exec_current_of_some {s : State} {h : Hasher} (hs : s.hasher = some h) :
    exec .current s = .next (s.respond .ok 0 h.acc) :=
  withHasher_of_some hs _

@[simp] theorem exec_current_of_none {s : State} (hs : s.hasher = none) :
    exec .current s = .next (s.respond .noInstance 0 0) :=
  withHasher_of_none hs _

@[simp] theorem exec_reset_of_some {s : State} {h : Hasher} (hs : s.hasher = some h) (seed : Word) :
    exec (.reset seed) s = .next ((s.writeAcc h seed).respond .ok 0 0) :=
  withHasher_of_some hs _

@[simp] theorem exec_reset_of_none {s : State} (hs : s.hasher = none) (seed : Word) :
    exec (.reset seed) s = .next (s.respond .noInstance 0 0) :=
  withHasher_of_none hs _

@[simp] theorem exec_hash_of_valid {s : State} {m : Word} (hm : validM s.cfg m = true) (word : Word) :
    exec (.hash word m) s =
      .next (s.respond .ok 0 ((wmul s.cfg.width word m).1 ^^^ (wmul s.cfg.width word m).2)) :=
  withConstant_of_valid hm _

@[simp] theorem exec_hash_of_invalid {s : State} {m : Word} (hm : validM s.cfg m = false) (word : Word) :
    exec (.hash word m) s = .next (s.respond .invalidConstant 0 0) :=
  withConstant_of_invalid hm _

@[simp] theorem exec_reserved6 (s : State) : exec .reserved6 s = .next (s.respond .illegalCommand 0 0) := rfl

@[simp] theorem exec_reserved7 (s : State) : exec .reserved7 s = .next (s.respond .illegalCommand 0 0) := rfl

/-! ### The status of a command

The status of a command's response as a function of command and state (60_exceptions R110 to R114), and
what `exec` does by it: with OK it writes at most the hasher, otherwise nothing. -/

/-- The status of the response of a command (60_exceptions R112 to R114). -/
def statusOf (s : State) : Instr → Status
  | .wmul _ _ => .ok
  | .construct _ m => if validM s.cfg m then .ok else .invalidConstant
  | .absorb _ => if s.valid then .ok else .noInstance
  | .current => if s.valid then .ok else .noInstance
  | .reset _ => if s.valid then .ok else .noInstance
  | .hash _ m => if validM s.cfg m then .ok else .invalidConstant
  | .reserved6 => .illegalCommand
  | .reserved7 => .illegalCommand

theorem statusOf_eq_invalidConstant_iff (s : State) (i : Instr) :
    statusOf s i = .invalidConstant ↔
      ∃ x m : Word, (i = .construct x m ∨ i = .hash x m) ∧ validM s.cfg m = false := by
  cases i <;> simp [statusOf, ite_eq_iff, -State.valid_eq_true]

theorem statusOf_eq_noInstance_iff (s : State) (i : Instr) :
    statusOf s i = .noInstance ↔
      (i = .current ∨ ∃ x : Word, i = .absorb x ∨ i = .reset x) ∧ s.valid = false := by
  cases i <;> simp [statusOf, ite_eq_iff, -State.valid_eq_true]

theorem statusOf_eq_illegalCommand_iff (s : State) (i : Instr) :
    statusOf s i = .illegalCommand ↔ i = .reserved6 ∨ i = .reserved7 := by
  cases i <;> simp [statusOf, ite_eq_iff, -State.valid_eq_true]

/-- Everything a command can do: complete, having written at most the hasher, or answer its error and write nothing. -/
theorem exec_cases (i : Instr) (s : State) :
    (statusOf s i = .ok ∧ ∃ (h : Option Hasher) (r1 r0 : Word),
      exec i s = .next ({ s with hasher := h }.respond .ok r1 r0)) ∨
    (statusOf s i ≠ .ok ∧ exec i s = .next (s.respond (statusOf s i) 0 0)) := by
  cases i with
  | wmul a b => exact .inl ⟨rfl, _, _, _, exec_wmul a b s⟩
  | construct seed m =>
    cases hm : validM s.cfg m with
    | true => exact .inl ⟨by simp [statusOf, hm], _, _, _, exec_construct_of_valid hm seed⟩
    | false => exact .inr (by simp [statusOf, hm])
  | absorb word =>
    cases hs : s.hasher with
    | some h => exact .inl ⟨by simp [statusOf, hs], _, _, _, exec_absorb_of_some hs word⟩
    | none => exact .inr (by simp [statusOf, hs])
  | current =>
    cases hs : s.hasher with
    | some h => exact .inl ⟨by simp [statusOf, hs], _, _, _, exec_current_of_some hs⟩
    | none => exact .inr (by simp [statusOf, hs])
  | reset seed =>
    cases hs : s.hasher with
    | some h => exact .inl ⟨by simp [statusOf, hs], _, _, _, exec_reset_of_some hs seed⟩
    | none => exact .inr (by simp [statusOf, hs])
  | hash word m =>
    cases hm : validM s.cfg m with
    | true => exact .inl ⟨by simp [statusOf, hm], _, _, _, exec_hash_of_valid hm word⟩
    | false => exact .inr (by simp [statusOf, hm])
  | reserved6 => exact .inr ⟨by simp [statusOf], exec_reserved6 s⟩
  | reserved7 => exact .inr ⟨by simp [statusOf], exec_reserved7 s⟩

/-- The response of a command carries its status and is put behind the earlier ones; nothing but the hasher is
written besides, and not even that with an error. -/
theorem exec_eq_respond (i : Instr) (s : State) :
    ∃ (h : Option Hasher) (r1 r0 : Word),
      exec i s = .next ({ s with hasher := h }.respond (statusOf s i) r1 r0) ∧
        (statusOf s i ≠ .ok → h = s.hasher ∧ r1 = 0 ∧ r0 = 0) := by
  obtain ⟨hok, h, r1, r0, hexec⟩ | ⟨-, hexec⟩ := exec_cases i s
  · exact ⟨h, r1, r0, by rw [hok, hexec], fun hne => absurd hok hne⟩
  · exact ⟨s.hasher, 0, 0, hexec, fun _ => ⟨rfl, rfl, rfl⟩⟩

/-! ### The parameters

No event at the ports and no command writes the parameters (00_scope R7, 70_reset_and_hazards R131). -/

@[simp] theorem State.deliver_cfg (s : State) : s.deliver.cfg = s.cfg := by
  cases hport : s.rspPort with
  | nil => rw [State.deliver_of_empty s hport]
  | cons r rest => rw [State.deliver_of_cons s r rest hport]

@[simp] theorem State.releaseReset_cfg (s : State) : s.releaseReset.cfg = s.cfg := by
  cases hreset : s.inReset with
  | true => rw [State.releaseReset_of_inReset s hreset]; rfl
  | false => rw [State.releaseReset_of_released s hreset]

@[simp] theorem hostAct_cfg (s : State) : (hostAct s).cfg = s.cfg := by
  cases hin : s.input with
  | nil => simp [hostAct, hin]
  | cons e rest => cases e <;> simp [hostAct, hin]

theorem exec_cfg {i : Instr} {s t : State} (h : exec i s = .next t) : t.cfg = s.cfg := by
  obtain ⟨k, r1, r0, hexec, -⟩ := exec_eq_respond i s
  rw [hexec] at h
  cases h
  rfl

/-- Everything a step that answers next can do: the host's own event, or an accepted command executed. -/
theorem step_cases {s t : State} (h : step s = .next t) :
    (fetch s = none ∧ t = hostAct s) ∨ ∃ i, fetch s = some (.ok i) ∧ exec i s.dropEvent = .next t := by
  unfold step at h
  split at h
  next hfetch => cases h; exact .inl ⟨hfetch, rfl⟩
  next i hfetch => exact .inr ⟨i, hfetch, h⟩
  next => cases h

/-! ### The bit test for a run of ones (00_scope R4) -/

/-- A number that shares no bit with its successor is a run of ones. -/
theorem and_succ_eq_zero_iff (n : Nat) : n &&& (n + 1) = 0 ↔ ∃ p, n = 2 ^ p - 1 := by
  have hpow := Nat.and_sub_one_eq_zero_iff_isPowerOfTwo (n := n + 1) (by omega)
  rw [Nat.add_sub_cancel, Nat.and_comm] at hpow
  rw [hpow]
  refine exists_congr fun p => ?_
  have := Nat.two_pow_pos p
  omega

theorem two_pow_sub_one_ne_zero_iff (p : Nat) : 2 ^ p - 1 ≠ 0 ↔ 1 ≤ p := by
  have := Nat.one_lt_two_pow_iff (n := p)
  omega

/-- Bit `k` of a run of `p` ones is 0 exactly when the run ends at or below it. -/
theorem testBit_run_of_ones_eq_false_iff (p k : Nat) : (2 ^ p - 1).testBit k = false ↔ p ≤ k := by
  simp [Nat.testBit_two_pow_sub_one]

/-- The runs of 1 to `k` ones are the numbers the bit test accepts. -/
theorem run_of_ones_iff_bit_test (n k : Nat) :
    (∃ p, 1 ≤ p ∧ p ≤ k ∧ n = 2 ^ p - 1) ↔ n ≠ 0 ∧ n &&& (n + 1) = 0 ∧ n.testBit k = false := by
  rw [and_succ_eq_zero_iff]
  constructor
  · rintro ⟨p, hmin, hmax, rfl⟩
    exact ⟨(two_pow_sub_one_ne_zero_iff p).2 hmin, ⟨p, rfl⟩, (testBit_run_of_ones_eq_false_iff p k).2 hmax⟩
  · rintro ⟨hne, ⟨p, rfl⟩, hbit⟩
    exact ⟨p, (two_pow_sub_one_ne_zero_iff p).1 hne, (testBit_run_of_ones_eq_false_iff p k).1 hbit, rfl⟩

/-! ### The statements of 00_scope -/

/-- Settles O15: a step is an event of the host or a command, and neither writes the parameters. -/
theorem parametersNeverChange : Obligations.ParametersNeverChange := by
  intro s t h
  obtain ⟨-, rfl⟩ | ⟨i, -, hexec⟩ := step_cases h
  · exact hostAct_cfg s
  · exact (exec_cfg hexec).trans s.dropEvent_cfg

/-- Settles O26: the status is `statusOf`, whose value is each error exactly under its condition. -/
theorem errorsExactlyWhenStated : Obligations.ErrorsExactlyWhenStated := by
  intro i s
  obtain ⟨h, r1, r0, hexec, herror⟩ := exec_eq_respond i s
  refine ⟨_, ⟨statusOf s i, r1, r0⟩, hexec, rfl, ?_, statusOf_eq_noInstance_iff s i,
    statusOf_eq_illegalCommand_iff s i, fun hne => ?_⟩
  · simp only [statusOf_eq_invalidConstant_iff, validM_eq_false_iff]
  · obtain ⟨rfl, rfl, rfl⟩ := herror hne
    rfl

/-- Settles O31: the default range is the runs of 1 to W - 1 ones. -/
theorem validConstantIsRunOfOnes : Obligations.ValidConstantIsRunOfOnes := by
  refine ⟨validM_iff, fun w m _ => ?_⟩
  have hzero : m.toNat ≠ 0 ↔ m ≠ 0 := BitVec.toNat_ne_iff_ne (n := 64) (y := 0)
  rw [validM_iff, run_of_ones_iff_bit_test, hzero]

/-- Settles O17: the constant passes the check, so a new hasher is installed. -/
theorem constructMakesHasher : Obligations.ConstructMakesHasher := by
  intro seed m s p hmin hmax hm
  exact exec_construct_of_valid ((validM_iff s.cfg m).2 ⟨p, hmin, hmax, hm⟩) seed

/-- Settles O22: the constant passes the check, so the two halves of the product are folded. -/
theorem hashFoldsProduct : Obligations.HashFoldsProduct := by
  intro word m s p hmin hmax hm
  exact exec_hash_of_valid ((validM_iff s.cfg m).2 ⟨p, hmin, hmax, hm⟩) word

end Sys2Proof.Machine

namespace Sys2Proof

/-! ### Words of the build: XOR, and the operands of a decoded command -/

theorem Word.xor_fits {w : Width} {a b : Word} (ha : a.fits w = true) (hb : b.fits w = true) :
    (a ^^^ b).fits w = true := by
  rw [Word.fits_iff] at *
  exact BitVec.toNat_xor a b ▸ Nat.xor_lt_two_pow ha hb

theorem fieldA_fits (w : Width) (cmd : CmdWord) : (fieldA w cmd).fits w = true := by
  rw [Word.fits_iff, fieldA_toNat]
  exact Nat.mod_lt _ (Nat.two_pow_pos _)

theorem fieldB_fits (w : Width) (cmd : CmdWord) : (fieldB w cmd).fits w = true := by
  rw [Word.fits_iff, fieldB_toNat]
  exact Nat.mod_lt _ (Nat.two_pow_pos _)

theorem instrOfFields_wf {w : Width} {a b : Word} (ha : a.fits w = true) (hb : b.fits w = true) (op : BitVec 3) :
    (instrOfFields op a b).wf w = true := by
  unfold instrOfFields
  split <;> simp [Instr.wf, ha, hb]

theorem decode_eq_ok_iff (w : Width) (cmd : CmdWord) (i : Instr) :
    decode w cmd = .ok i ↔ cmd.fits w = true ∧ instrOfFields (fieldOp cmd) (fieldA w cmd) (fieldB w cmd) = i := by
  unfold decode
  split <;> simp [*]

theorem decode_wf {w : Width} {cmd : CmdWord} {i : Instr} (h : decode w cmd = .ok i) : i.wf w = true := by
  obtain ⟨-, rfl⟩ := (decode_eq_ok_iff w cmd i).1 h
  exact instrOfFields_wf (fieldA_fits w cmd) (fieldB_fits w cmd) _

end Sys2Proof

namespace Sys2Proof.Machine

open Sys2Proof.Laws.EncodingOfOp (zero_fits)

/-! ### Results of Words are Words -/

theorem wmul_high_fits {w : Width} {a b : Word} (ha : a.fits w = true) (hb : b.fits w = true) :
    (wmul w a b).1.fits w = true := by
  rw [Word.fits_iff, wmul_high_toNat ha hb]
  rw [Word.fits_iff] at ha hb
  exact Nat.div_lt_of_lt_mul (Nat.mul_lt_mul'' ha hb)

theorem wmul_low_fits (w : Width) (a b : Word) : (wmul w a b).2.fits w = true := by
  rw [Word.fits_iff, wmul_low_toNat]
  exact Nat.mod_lt _ (Nat.two_pow_pos _)

theorem absorbStep_fits {w : Width} {acc m word : Word} (hacc : acc.fits w = true) (hm : m.fits w = true)
    (hword : word.fits w = true) : (absorbStep w acc m word).fits w = true :=
  wmul_high_fits (Word.xor_fits hacc hword) hm

theorem Hasher.wf_iff (c : Config) (h : Hasher) :
    h.wf c = true ↔ h.acc.fits c.width = true ∧ h.mreg.fits c.width = true ∧ validM c h.mreg = true := by
  simp [Hasher.wf, and_assoc]

theorem Response.wf_ok_iff (w : Width) (r1 r0 : Word) :
    Response.wf w ⟨.ok, r1, r0⟩ = true ↔ r1.fits w = true ∧ r0.fits w = true := by
  simp [Response.wf]

theorem Response.wf_zero (w : Width) (st : Status) : Response.wf w ⟨st, 0, 0⟩ = true := by
  simpa [Response.wf] using zero_fits w

theorem Response.words_of_wf {w : Width} {r : Response} (h : r.wf w = true) :
    r.r1.fits w = true ∧ r.r0.fits w = true := by
  simp only [Response.wf, Bool.and_eq_true] at h
  exact h.1

/-- A response of Words is delivered as an RW-bit word (30_encoding R53). -/
theorem Response.encode_fits {w : Width} {r : Response} (h : r.wf w = true) : (r.encode w).fits w = true := by
  obtain ⟨h1, h0⟩ := Response.words_of_wf h
  have hc := Status.code_lt r.st
  rw [RspWord.fits_iff, Response.encode_toNat h1 h0]
  rw [Word.fits_iff] at h1 h0
  cases w <;> simp only [Width.bits] at h1 h0 ⊢ <;> omega

/-! ### What is fetched, and what happens to the hasher -/

theorem fetch_eq_some_ok_iff (s : State) (i : Instr) :
    fetch s = some (.ok i) ↔
      ∃ cmd rest, s.input = .command cmd :: rest ∧ s.inReset = false ∧ decode s.cfg.width cmd = .ok i := by
  unfold fetch
  split
  next cmd rest hin => cases s.inReset <;> simp [hin]
  next hno => simpa using fun cmd rest hin => absurd hin (hno cmd rest)

@[simp] theorem State.deliver_hasher (s : State) : s.deliver.hasher = s.hasher := by
  cases hport : s.rspPort with
  | nil => rw [State.deliver_of_empty s hport]
  | cons r rest => rw [State.deliver_of_cons s r rest hport]

/-- An event of the host leaves the hasher, or ends it by a change of the hard-reset input. -/
theorem hostAct_hasher_cases (s : State) :
    (hostAct s).hasher = s.hasher ∨
      (hostAct s).hasher = none ∧ ((∃ rest, s.input = .assertReset :: rest) ∨ s.inReset = true) := by
  cases hin : s.input with
  | nil => exact .inl (by simp [hostAct, hin])
  | cons e rest =>
    cases e with
    | command cmd => exact .inl (by simp [hostAct, hin])
    | takeResponse => exact .inl (by simp [hostAct, hin])
    | assertReset => exact .inr (by simp [hostAct, hin])
    | releaseReset =>
      cases hreset : s.inReset with
      | true => exact .inr (by simp [hostAct, hin, hreset])
      | false => exact .inl (by simp [hostAct, hin, hreset])
    | idle => exact .inl (by simp [hostAct, hin])

/-- Everything a command can do to the hasher: leave it, make a new one of a valid constant, or write the accumulator
of the one there is (10_state R30). -/
theorem exec_hasher_cases (i : Instr) (s : State) :
    ∃ t, exec i s = .next t ∧
      (t.hasher = s.hasher ∨
      (∃ seed m, i = .construct seed m ∧ validM s.cfg m = true ∧ t.hasher = some ⟨seed, m⟩) ∨
      ∃ k v, ((∃ word, i = .absorb word ∧ v = absorbStep s.cfg.width k.acc k.mreg word) ∨ i = .reset v) ∧
        s.hasher = some k ∧ t.hasher = some ⟨v, k.mreg⟩) := by
  cases i with
  | wmul a b => exact ⟨_, exec_wmul a b s, .inl rfl⟩
  | construct seed m =>
    cases hm : validM s.cfg m with
    | true => exact ⟨_, exec_construct_of_valid hm seed, .inr (.inl ⟨seed, m, rfl, hm, rfl⟩)⟩
    | false => exact ⟨_, exec_construct_of_invalid hm seed, .inl rfl⟩
  | absorb word =>
    cases hs : s.hasher with
    | some k => exact ⟨_, exec_absorb_of_some hs word, .inr (.inr ⟨k, _, .inl ⟨word, rfl, rfl⟩, rfl, rfl⟩)⟩
    | none => exact ⟨_, exec_absorb_of_none hs word, .inl hs⟩
  | current =>
    cases hs : s.hasher with
    | some k => exact ⟨_, exec_current_of_some hs, .inl hs⟩
    | none => exact ⟨_, exec_current_of_none hs, .inl hs⟩
  | reset seed =>
    cases hs : s.hasher with
    | some k => exact ⟨_, exec_reset_of_some hs seed, .inr (.inr ⟨k, seed, .inr rfl, rfl, rfl⟩)⟩
    | none => exact ⟨_, exec_reset_of_none hs seed, .inl hs⟩
  | hash word m =>
    cases hm : validM s.cfg m with
    | true => exact ⟨_, exec_hash_of_valid hm word, .inl rfl⟩
    | false => exact ⟨_, exec_hash_of_invalid hm word, .inl rfl⟩
  | reserved6 => exact ⟨_, exec_reserved6 s, .inl rfl⟩
  | reserved7 => exact ⟨_, exec_reserved7 s, .inl rfl⟩

/-! ### The invariant under each operation -/

namespace State.Inv

variable {s : State} (hs : s.Inv)
include hs

theorem respond (hreset : s.inReset = false) {st : Status} {r1 r0 : Word}
    (hr : Response.wf s.cfg.width ⟨st, r1, r0⟩ = true) : (s.respond st r1 r0).Inv where
  cfg_wf := hs.cfg_wf
  hasher_wf := hs.hasher_wf
  reset_clear h := by simp [hreset] at h
  port_wf := by simpa [or_imp, forall_and, hr] using hs.port_wf
  delivered_wf := hs.delivered_wf

theorem respond_zero (hreset : s.inReset = false) (st : Status) : (s.respond st 0 0).Inv :=
  hs.respond hreset (Response.wf_zero _ st)

theorem respond_ok (hreset : s.inReset = false) {r1 r0 : Word} (h1 : r1.fits s.cfg.width = true)
    (h0 : r0.fits s.cfg.width = true) : (s.respond .ok r1 r0).Inv :=
  hs.respond hreset ((Response.wf_ok_iff _ r1 r0).2 ⟨h1, h0⟩)

theorem install (hreset : s.inReset = false) {seed m : Word} (hseed : seed.fits s.cfg.width = true)
    (hm : m.fits s.cfg.width = true) (hvalid : validM s.cfg m = true) : (s.install seed m).Inv where
  cfg_wf := hs.cfg_wf
  hasher_wf := by rintro k ⟨⟩; exact (Hasher.wf_iff _ _).2 ⟨hseed, hm, hvalid⟩
  reset_clear h := by simp [hreset] at h
  port_wf := hs.port_wf
  delivered_wf := hs.delivered_wf

/-- Writing the accumulator installs the constant that is there, which is valid already. -/
theorem writeAcc (hreset : s.inReset = false) {k : Hasher} (hk : s.hasher = some k) {v : Word}
    (hv : v.fits s.cfg.width = true) : (s.writeAcc k v).Inv := by
  obtain ⟨-, hm, hvalid⟩ := (Hasher.wf_iff _ _).1 (hs.hasher_wf k hk)
  exact hs.install hreset hv hm hvalid

theorem dropEvent : s.dropEvent.Inv :=
  ⟨hs.cfg_wf, hs.hasher_wf, hs.reset_clear, hs.port_wf, hs.delivered_wf⟩

theorem deliver : s.deliver.Inv := by
  cases hport : s.rspPort with
  | nil => rwa [State.deliver_of_empty s hport]
  | cons r rest =>
    have hwf : ∀ x ∈ r :: rest, x.wf s.cfg.width = true := hport ▸ hs.port_wf
    obtain ⟨hr, hrest⟩ := List.forall_mem_cons.1 hwf
    rw [State.deliver_of_cons s r rest hport]
    exact {
      cfg_wf := hs.cfg_wf
      hasher_wf := hs.hasher_wf
      reset_clear := fun h => absurd (hs.reset_clear h).2 (by simp [hport])
      port_wf := hrest
      delivered_wf := by simpa [or_imp, forall_and, Response.encode_fits hr] using hs.delivered_wf }

/-- Hard reset leaves nothing to check but the parameters and what was delivered, at either level of its input. -/
theorem clear (level : Bool) : State.Inv { s.clear with inReset := level } where
  cfg_wf := hs.cfg_wf
  hasher_wf := by simp
  reset_clear _ := ⟨rfl, rfl⟩
  port_wf := by simp
  delivered_wf := hs.delivered_wf

theorem releaseReset : s.releaseReset.Inv := by
  cases hreset : s.inReset with
  | true => rw [State.releaseReset_of_inReset s hreset]; exact hs.clear false
  | false => rwa [State.releaseReset_of_released s hreset]

theorem hostAct : (hostAct s).Inv := by
  unfold Machine.hostAct
  split
  · exact hs
  · exact hs.dropEvent
  · exact hs.dropEvent.deliver
  · exact hs.dropEvent.clear true
  · exact hs.dropEvent.releaseReset
  · exact hs.dropEvent

/-- A well-formed command accepted while hard reset is released completes, and keeps the invariant. -/
theorem exec (hreset : s.inReset = false) {i : Instr} (hi : i.wf s.cfg.width = true) :
    ∃ t, exec i s = .next t ∧ t.Inv := by
  cases i with
  | wmul a b =>
    obtain ⟨ha, hb⟩ := Bool.and_eq_true_iff.1 hi
    exact ⟨_, exec_wmul a b s, hs.respond_ok hreset (wmul_high_fits ha hb) (wmul_low_fits _ a b)⟩
  | construct seed m =>
    obtain ⟨hseed, hm⟩ := Bool.and_eq_true_iff.1 hi
    cases hvalid : validM s.cfg m with
    | true =>
      exact ⟨_, exec_construct_of_valid hvalid seed, (hs.install hreset hseed hm hvalid).respond_zero hreset _⟩
    | false => exact ⟨_, exec_construct_of_invalid hvalid seed, hs.respond_zero hreset _⟩
  | absorb word =>
    cases hk : s.hasher with
    | some k =>
      obtain ⟨hacc, hm, -⟩ := (Hasher.wf_iff _ _).1 (hs.hasher_wf k hk)
      exact ⟨_, exec_absorb_of_some hk word,
        (hs.writeAcc hreset hk (absorbStep_fits hacc hm hi)).respond_zero hreset _⟩
    | none => exact ⟨_, exec_absorb_of_none hk word, hs.respond_zero hreset _⟩
  | current =>
    cases hk : s.hasher with
    | some k =>
      obtain ⟨hacc, -, -⟩ := (Hasher.wf_iff _ _).1 (hs.hasher_wf k hk)
      exact ⟨_, exec_current_of_some hk, hs.respond_ok hreset (zero_fits _) hacc⟩
    | none => exact ⟨_, exec_current_of_none hk, hs.respond_zero hreset _⟩
  | reset seed =>
    cases hk : s.hasher with
    | some k => exact ⟨_, exec_reset_of_some hk seed, (hs.writeAcc hreset hk hi).respond_zero hreset _⟩
    | none => exact ⟨_, exec_reset_of_none hk seed, hs.respond_zero hreset _⟩
  | hash word m =>
    obtain ⟨hword, hm⟩ := Bool.and_eq_true_iff.1 hi
    cases hvalid : validM s.cfg m with
    | true =>
      exact ⟨_, exec_hash_of_valid hvalid word, hs.respond_ok hreset (zero_fits _)
        (Word.xor_fits (wmul_high_fits hword hm) (wmul_low_fits _ word m))⟩
    | false => exact ⟨_, exec_hash_of_invalid hvalid word, hs.respond_zero hreset _⟩
  | reserved6 => exact ⟨_, exec_reserved6 s, hs.respond_zero hreset _⟩
  | reserved7 => exact ⟨_, exec_reserved7 s, hs.respond_zero hreset _⟩

end State.Inv

/-! ### The statements of 10_state -/

/-- Settles O3: the host's events keep the invariant, and so does an accepted command, whose operands are Words because
it was decoded. -/
theorem stepKeepsInvariant : Obligations.StepKeepsInvariant := by
  intro s t hs h
  obtain ⟨-, rfl⟩ | ⟨i, hfetch, hexec⟩ := step_cases h
  · exact hs.hostAct
  · obtain ⟨cmd, rest, -, hreset, hdec⟩ := (fetch_eq_some_ok_iff s i).1 hfetch
    obtain ⟨t', hexec', ht'⟩ := hs.dropEvent.exec hreset (decode_wf hdec)
    cases hexec.symm.trans hexec'
    exact ht'

/-- Settles O27: a command leaves the hasher, makes a new one (CONSTRUCT), or writes the accumulator of the one there is
(ABSORB, RESET). -/
theorem commandsKeepRegisters : Obligations.CommandsKeepRegisters := by
  intro i s t h
  obtain ⟨t', hexec, hcases⟩ := exec_hasher_cases i s
  cases h.symm.trans hexec
  obtain hsame | ⟨seed, m, rfl, -, ht⟩ | ⟨k, v, hi, hs, ht⟩ := hcases
  · simp [hsame, State.valid]
  · exact ⟨by simp [ht], fun hno => absurd rfl (hno seed m), fun hno => absurd rfl (hno seed m).1⟩
  · refine ⟨by simp [ht], fun _ => by simp [State.valid, hs, ht], fun hno => ?_⟩
    obtain ⟨word, rfl, -⟩ | rfl := hi
    · exact absurd rfl (hno word 0).2.1
    · exact absurd rfl (hno v 0).2.2

/-- Settles O28: no command clears VALID, and while hard reset is asserted there is no hasher left for its release to
end. -/
theorem onlyHardResetEndsHasher : Obligations.OnlyHardResetEndsHasher := by
  intro s t hs h hvalid hended
  obtain ⟨-, rfl⟩ | ⟨i, -, hexec⟩ := step_cases h
  · obtain hsame | ⟨-, hassert | hreset⟩ := hostAct_hasher_cases s
    · have hkept : (hostAct s).valid = s.valid := congrArg Option.isSome hsame
      cases hended.symm.trans (hkept.trans hvalid)
    · exact hassert
    · simp [State.valid, (hs.reset_clear hreset).1] at hvalid
  · have hkept := (commandsKeepRegisters i s.dropEvent t hexec).1 hvalid
    cases hended.symm.trans hkept

/-- Settles O29: the host's events make no hasher, and of the commands only CONSTRUCT writes the constant. -/
theorem onlyConstructInstallsConstant : Obligations.OnlyConstructInstallsConstant := by
  intro s t h' h ht hnew
  obtain ⟨-, rfl⟩ | ⟨i, hfetch, hexec⟩ := step_cases h
  · obtain hsame | ⟨hnone, -⟩ := hostAct_hasher_cases s
    · exact absurd rfl (hnew h' (hsame.symm.trans ht))
    · simp [hnone] at ht
  · obtain ⟨t', hexec', hcases⟩ := exec_hasher_cases i s.dropEvent
    cases hexec.symm.trans hexec'
    obtain hsame | ⟨seed, m, rfl, hvalid, ht'⟩ | ⟨k, v, -, hk, ht'⟩ := hcases
    · exact absurd rfl (hnew h' (hsame.symm.trans ht))
    · cases ht.symm.trans ht'
      obtain ⟨cmd, rest, hin, hreset, hdec⟩ := (fetch_eq_some_ok_iff s _).1 hfetch
      obtain ⟨p, hmin, hmax, hm⟩ := (validM_iff s.cfg m).1 hvalid
      exact ⟨cmd, rest, p, hin, hreset, hdec, hmin, hmax, hm⟩
    · cases ht.symm.trans ht'
      exact absurd rfl (hnew k hk)

/-- Settles O1: the fields of `State.reset`. -/
theorem resetHoldsNoHasher : Obligations.ResetHoldsNoHasher :=
  ⟨rfl, rfl, rfl, rfl, rfl, rfl⟩

/-- Settles O2: the default parameters are in their domain, and nothing else is held. -/
theorem resetStateMeetsInvariant : Obligations.ResetStateMeetsInvariant where
  cfg_wf := by decide
  hasher_wf := by simp [State.reset]
  reset_clear _ := ⟨rfl, rfl⟩
  port_wf := by simp [State.reset]
  delivered_wf := by simp [State.reset]

/-- Settles O24: without a hasher each of the three raises NoInstance. -/
theorem noHasherNoInstance : Obligations.NoHasherNoInstance := by
  intro x s hvalid
  have hs : s.hasher = none := (State.valid_eq_false s).1 hvalid
  exact ⟨exec_absorb_of_none hs x, exec_current_of_none hs, exec_reset_of_none hs x⟩

end Sys2Proof.Machine

namespace Sys2Proof

/-! ### The fields of a packed command word read back (30_encoding R51, R60) -/

theorem Instr.opcode_lt (i : Instr) : i.opcode < 8 := by cases i <;> simp [Instr.opcode]

theorem Instr.operands_fit {w : Width} {i : Instr} (h : i.wf w = true) :
    i.operandA.fits w = true ∧ i.operandB.fits w = true := by
  have hzero := Laws.EncodingOfOp.zero_fits w
  cases i with
  | wmul _ _ | construct _ _ | hash _ _ => exact Bool.and_eq_true_iff.1 h
  | absorb _ | reset _ => exact ⟨h, hzero⟩
  | current | reserved6 | reserved7 => exact ⟨hzero, hzero⟩

theorem instrOfFields_opcode_operands {op : BitVec 3} {i : Instr} (hop : op.toNat = i.opcode) :
    instrOfFields op i.operandA i.operandB = i := by
  unfold instrOfFields
  rw [hop]
  cases i <;> rfl

section
variable {w : Width} {op : Nat} {a b : Word} (hop : op < 8) (ha : a.fits w = true) (hb : b.fits w = true)
include hop ha hb

theorem fieldOp_packCommand : (fieldOp (packCommand w op a b)).toNat = op := by
  rw [fieldOp_toNat, packCommand_toNat hop ha hb]
  cases w <;> simp only [Width.bits] <;> omega

theorem fieldA_packCommand : fieldA w (packCommand w op a b) = a := by
  apply BitVec.eq_of_toNat_eq
  rw [fieldA_toNat, packCommand_toNat hop ha hb]
  rw [Word.fits_iff] at ha
  cases w <;> simp only [Width.bits] at ha ⊢ <;> omega

theorem fieldB_packCommand : fieldB w (packCommand w op a b) = b := by
  apply BitVec.eq_of_toNat_eq
  rw [fieldB_toNat, packCommand_toNat hop ha hb]
  rw [Word.fits_iff] at ha hb
  cases w <;> simp only [Width.bits] at ha hb ⊢ <;> omega

end

theorem decode_encode {w : Width} {i : Instr} (h : i.wf w = true) : decode w (encode w i) = .ok i := by
  obtain ⟨ha, hb⟩ := Instr.operands_fit h
  have hop := i.opcode_lt
  refine (decode_eq_ok_iff w _ i).2 ⟨packCommand_fits hop ha hb, ?_⟩
  rw [encode, fieldA_packCommand hop ha hb, fieldB_packCommand hop ha hb]
  exact instrOfFields_opcode_operands (fieldOp_packCommand hop ha hb)

end Sys2Proof

namespace Sys2Proof.Machine

/-! ### What a command reads

The new hasher and the response of a command are determined by the parameters and the hasher it finds; the ports and
the level of hard reset have no part in them (20_memory R43, 70_reset_and_hazards R136). -/

/-- `s` after commands that leave the hasher `h` and have answered `rs` behind the earlier responses. -/
def State.answer (s : State) (h : Option Hasher) (rs : List Response) : State :=
  { s with hasher := h, rspPort := s.rspPort ++ rs }

@[simp] theorem State.answer_rspPort (s : State) (h : Option Hasher) (rs : List Response) :
    (s.answer h rs).rspPort = s.rspPort ++ rs := rfl

@[simp] theorem State.answer_nil (s : State) : s.answer s.hasher [] = s := by simp [State.answer]

@[simp] theorem State.answer_answer (s : State) (h h' : Option Hasher) (rs rs' : List Response) :
    (s.answer h rs).answer h' rs' = s.answer h' (rs ++ rs') := by simp [State.answer]

theorem exec_determined_by_hasher (i : Instr) (c : Config) (k : Option Hasher) :
    ∃ (h : Option Hasher) (r : Response), ∀ s : State, s.cfg = c → s.hasher = k →
      exec i s = .next (s.answer h [r]) := by
  cases i with
  | wmul a b => exact ⟨k, ⟨.ok, (wmul c.width a b).1, (wmul c.width a b).2⟩, by rintro s rfl rfl; rfl⟩
  | construct seed m =>
    cases hm : validM c m with
    | true =>
      exact ⟨some ⟨seed, m⟩, ⟨.ok, 0, 0⟩, by rintro s rfl -; exact exec_construct_of_valid hm seed⟩
    | false => exact ⟨k, ⟨.invalidConstant, 0, 0⟩, by rintro s rfl rfl; exact exec_construct_of_invalid hm seed⟩
  | absorb word =>
    cases k with
    | some k =>
      exact ⟨some ⟨absorbStep c.width k.acc k.mreg word, k.mreg⟩, ⟨.ok, 0, 0⟩,
        by rintro s rfl hs; exact exec_absorb_of_some hs word⟩
    | none => exact ⟨none, ⟨.noInstance, 0, 0⟩, by rintro s - hs; rw [← hs]; exact exec_absorb_of_none hs word⟩
  | current =>
    cases k with
    | some k => exact ⟨some k, ⟨.ok, 0, k.acc⟩, by rintro s - hs; rw [← hs]; exact exec_current_of_some hs⟩
    | none => exact ⟨none, ⟨.noInstance, 0, 0⟩, by rintro s - hs; rw [← hs]; exact exec_current_of_none hs⟩
  | reset seed =>
    cases k with
    | some k => exact ⟨some ⟨seed, k.mreg⟩, ⟨.ok, 0, 0⟩, by rintro s - hs; exact exec_reset_of_some hs seed⟩
    | none => exact ⟨none, ⟨.noInstance, 0, 0⟩, by rintro s - hs; rw [← hs]; exact exec_reset_of_none hs seed⟩
  | hash word m =>
    cases hm : validM c m with
    | true =>
      exact ⟨k, ⟨.ok, 0, (wmul c.width word m).1 ^^^ (wmul c.width word m).2⟩,
        by rintro s rfl rfl; exact exec_hash_of_valid hm word⟩
    | false => exact ⟨k, ⟨.invalidConstant, 0, 0⟩, by rintro s rfl rfl; exact exec_hash_of_invalid hm word⟩
  | reserved6 => exact ⟨k, ⟨.illegalCommand, 0, 0⟩, by rintro s - rfl; rfl⟩
  | reserved7 => exact ⟨k, ⟨.illegalCommand, 0, 0⟩, by rintro s - rfl; rfl⟩

/-- A list of commands completes with one response each, put behind the earlier ones in order. -/
theorem runCommands_determined_by_hasher (cs : List Instr) (c : Config) (k : Option Hasher) :
    ∃ (h : Option Hasher) (rs : List Response), rs.length = cs.length ∧
      ∀ s : State, s.cfg = c → s.hasher = k →
        runCommands cs s = .next (s.answer h rs) := by
  induction cs generalizing k with
  | nil => exact ⟨k, [], rfl, by rintro s - rfl; simp⟩
  | cons i is ih =>
    obtain ⟨h, r, hexec⟩ := exec_determined_by_hasher i c k
    obtain ⟨h', rs, hlen, hrun⟩ := ih h
    refine ⟨h', r :: rs, by simp [hlen], fun s hc hk => ?_⟩
    calc runCommands (i :: is) s
      _ = runCommands is (s.answer h [r]) := runCommands_of_next (hexec s hc hk)
      _ = .next ((s.answer h [r]).answer h' rs) := hrun _ hc rfl
      _ = .next (s.answer h' (r :: rs)) := by simp

/-! ### Runs of steps -/

theorem core_run_add_of_next {j k : Nat} {s t : State} (h : Sys2Proof.core.run j s = .next t) :
    Sys2Proof.core.run (j + k) s = Sys2Proof.core.run k t := by
  induction j generalizing s with
  | zero => cases h; rw [Nat.zero_add]
  | succ j ih =>
    rw [Nat.succ_add]
    cases hstep : step s with
    | next u =>
      rw [core_run_of_next hstep] at h ⊢
      exact ih h
    | fault r => cases r
    | refused r => cases (core_run_of_refused hstep).symm.trans h

theorem step_takeResponse_of_cons {s : State} {rest : List HostEvent} {r : Response} {rs : List Response}
    (hin : s.input = .takeResponse :: rest) (hport : s.rspPort = r :: rs) :
    step s = .next
      { s with input := rest, rspPort := rs, delivered := s.delivered ++ [r.encode s.cfg.width] } := by
  have hdrop : s.dropEvent.rspPort = r :: rs := hport
  have hact : hostAct s = s.dropEvent.deliver := by simp [hostAct, hin]
  have hstep : step s = .next (hostAct s) := by simp [step, fetch, hin]
  rw [hstep, hact, State.deliver_of_cons _ r rs hdrop, State.dropEvent, hin]
  rfl

/-- A host that takes as often as there are responses gets them all, in order. -/
theorem core_run_takeResponses {n : Nat} {s : State} {rest : List HostEvent} (hn : s.rspPort.length = n)
    (hin : s.input = List.replicate n .takeResponse ++ rest) :
    Sys2Proof.core.run n s = .next { s with
      input := rest, rspPort := [],
      delivered := s.delivered ++ s.rspPort.map (Response.encode s.cfg.width) } := by
  induction n generalizing s with
  | zero =>
    have hport : s.rspPort = [] := List.length_eq_zero_iff.1 hn
    have hin' : s.input = rest := hin
    rw [core_run_zero, hport, List.map_nil, List.append_nil, ← hport, ← hin']
  | succ n ih =>
    obtain ⟨r, rs, hport⟩ := List.exists_cons_of_length_eq_add_one hn
    have hlen : rs.length = n := by simpa [hport] using hn
    refine (core_run_of_next (step_takeResponse_of_cons hin hport)).trans ((ih hlen rfl).trans ?_)
    rw [hport, List.append_assoc]
    rfl

/-! ### The statements of 20_memory -/

/-- Settles O10: the word is what the step fetches. -/
theorem stepRunsAcceptedCommand : Obligations.StepRunsAcceptedCommand := by
  intro s cmd rest i hin hreset hdec
  have hfetch : fetch s = some (.ok i) := (fetch_eq_some_ok_iff s i).2 ⟨cmd, rest, hin, hreset, hdec⟩
  simp [step, hfetch, State.dropEvent, hin]

/-- Settles O25: `exec` answers next with its response behind the earlier ones. -/
theorem oneResponsePerCommand : Obligations.OneResponsePerCommand := by
  intro i s
  obtain ⟨h, r1, r0, hexec, -⟩ := exec_eq_respond i s
  exact ⟨h, ⟨statusOf s i, r1, r0⟩, hexec⟩

/-- Settles O44, by induction on the list: the words not yet accepted have no part in what a command does. -/
theorem runAgreesWithInterpreter : Obligations.RunAgreesWithInterpreter := by
  intro s cs rest hreset hwf hin
  induction cs generalizing s with
  | nil =>
    have hin' : s.input = rest := hin
    rw [← hin']
    rfl
  | cons i is ih =>
    obtain ⟨hi, his⟩ := List.forall_mem_cons.1 hwf
    obtain ⟨h, r, hexec⟩ := exec_determined_by_hasher i s.cfg s.hasher
    have hstep := (stepRunsAcceptedCommand s _ _ i hin hreset (decode_encode hi)).trans (hexec _ rfl rfl)
    have hrun := (core_run_of_next hstep).trans (ih _ hreset his rfl)
    exact hrun.trans (runCommands_of_next (hexec { s with input := rest } rfl rfl)).symm

/-- Settles O45: the first half of the run is the interpreter's (O44), the second takes the responses it left. -/
theorem responsesDeliveredInOrder : Obligations.ResponsesDeliveredInOrder := by
  intro s cs hreset hport hwf hin
  obtain ⟨h, rs, hlen, hrun⟩ := runCommands_determined_by_hasher cs s.cfg s.hasher
  have hanswered : (s.rspPort ++ rs).length = cs.length := by rw [hport, List.nil_append, hlen]
  have hsent := (runAgreesWithInterpreter s cs _ hreset hwf hin).trans (hrun _ rfl rfl)
  have htaken := core_run_takeResponses
    (s := State.answer { s with input := List.replicate cs.length .takeResponse } h rs) hanswered
    (List.append_nil _).symm
  exact ⟨_, _, (core_run_add_of_next hsent).trans htaken, hrun _ rfl rfl, hanswered, rfl⟩

end Sys2Proof.Machine

namespace Sys2Proof

/-! ### What the decoder reads (30_encoding R51, R60) -/

theorem fieldOp_lt (cmd : CmdWord) : (fieldOp cmd).toNat < 8 := (fieldOp cmd).isLt

/-- A CW-bit word is made up of its three fields. -/
theorem CmdWord.toNat_eq_fields {w : Width} {cmd : CmdWord} (h : cmd.fits w = true) :
    cmd.toNat =
      (fieldB w cmd).toNat * 2 ^ (w.bits + 3) + (fieldA w cmd).toNat * 2 ^ 3 + (fieldOp cmd).toNat := by
  rw [CmdWord.fits_iff] at h
  rw [fieldA_toNat, fieldB_toNat, fieldOp_toNat]
  cases w <;> simp only [Width.bits] at h ⊢ <;> omega

/-- The case list of R60 on the number of the opcode. -/
theorem instrOfFields_eq_ite (op : BitVec 3) (a b : Word) :
    instrOfFields op a b =
      if op.toNat = 0 then .wmul a b else if op.toNat = 1 then .construct a b
      else if op.toNat = 2 then .absorb a else if op.toNat = 3 then .current
      else if op.toNat = 4 then .reset a else if op.toNat = 5 then .hash a b
      else if op.toNat = 6 then .reserved6 else .reserved7 := by
  unfold instrOfFields
  split <;> simp_all

theorem instrOfFields_of_six {op : BitVec 3} (hop : op.toNat = 6) (a b : Word) :
    instrOfFields op a b = .reserved6 := by
  simp [instrOfFields_eq_ite, hop]

theorem instrOfFields_of_seven {op : BitVec 3} (hop : op.toNat = 7) (a b : Word) :
    instrOfFields op a b = .reserved7 := by
  simp [instrOfFields_eq_ite, hop]

/-- ABSORB and RESET ignore B; CURRENT and the reserved opcodes ignore both operand fields (30_encoding R57, R58). -/
theorem instrOfFields_ignores {op : BitVec 3} {a a' : Word} (b b' : Word)
    (h : (op.toNat = 2 ∨ op.toNat = 4) ∧ a = a' ∨ op.toNat = 3 ∨ op.toNat = 6 ∨ op.toNat = 7) :
    instrOfFields op a b = instrOfFields op a' b' := by
  obtain ⟨hop | hop, rfl⟩ | hop | hop | hop := h <;> simp only [instrOfFields_eq_ite, hop] <;> rfl

theorem decode_of_fits {w : Width} {cmd : CmdWord} (h : cmd.fits w = true) :
    decode w cmd = .ok (instrOfFields (fieldOp cmd) (fieldA w cmd) (fieldB w cmd)) :=
  (decode_eq_ok_iff w cmd _).2 ⟨h, rfl⟩

theorem decode_of_not_fits {w : Width} {cmd : CmdWord} (h : ¬ cmd.fits w = true) :
    decode w cmd = .error .notCwBits :=
  if_neg h

end Sys2Proof

namespace Sys2Proof.Machine

/-! ### A command word offered at the port -/

/-- The step that accepts a CW-bit word executes the command of its fields. -/
theorem step_offer_of_fits (s : State) {cmd : CmdWord} (h : cmd.fits s.cfg.width = true) :
    step (s.offer cmd) =
      exec (instrOfFields (fieldOp cmd) (fieldA s.cfg.width cmd) (fieldB s.cfg.width cmd))
        { s with inReset := false } :=
  stepRunsAcceptedCommand (s.offer cmd) cmd s.input _ rfl rfl (decode_of_fits h)

theorem step_takeResponse_of_empty {s : State} {rest : List HostEvent} (hin : s.input = .takeResponse :: rest)
    (hport : s.rspPort = []) : step s = .next { s with input := rest } := by
  have hstep : step s = .next s.dropEvent.deliver := by simp [step, fetch, hostAct, hin]
  rw [hstep, State.deliver_of_empty s.dropEvent hport, State.dropEvent, hin]
  rfl

/-! ### The fields of an encoded response read back (30_encoding R53, R54) -/

theorem Status.ofCode_of_toNat {c : BitVec 2} {st : Status} (h : c.toNat = st.code) : Status.ofCode c = st := by
  unfold Status.ofCode
  rw [h]
  cases st <;> rfl

section
variable {w : Width} {r : Response} (h1 : r.r1.fits w = true) (h0 : r.r0.fits w = true)
include h1 h0

/-- An encoded response of Words has RW bits, whatever its status. -/
theorem Response.encode_fits_of_words : (r.encode w).fits w = true := by
  have hc := Status.code_lt r.st
  rw [RspWord.fits_iff, Response.encode_toNat h1 h0]
  rw [Word.fits_iff] at h1 h0
  cases w <;> simp only [Width.bits] at h1 h0 ⊢ <;> omega

theorem Response.ofWord_encode_st : (Response.ofWord w (r.encode w)).st = r.st := by
  apply Status.ofCode_of_toNat
  have hc := Status.code_lt r.st
  rw [BitVec.extractLsb'_toNat, Response.encode_toNat h1 h0, Nat.shiftRight_zero]
  cases w <;> simp only [Width.bits] <;> omega

theorem Response.ofWord_encode_r0 : (Response.ofWord w (r.encode w)).r0 = r.r0 := by
  apply BitVec.eq_of_toNat_eq
  have hc := Status.code_lt r.st
  simp only [Response.ofWord, BitVec.toNat_setWidth, BitVec.extractLsb'_toNat, Response.encode_toNat h1 h0,
    Nat.shiftRight_eq_div_pow]
  rw [Word.fits_iff] at h0
  cases w <;> simp only [Width.bits] at h0 ⊢ <;> omega

theorem Response.ofWord_encode_r1 : (Response.ofWord w (r.encode w)).r1 = r.r1 := by
  apply BitVec.eq_of_toNat_eq
  have hc := Status.code_lt r.st
  simp only [Response.ofWord, BitVec.toNat_setWidth, BitVec.extractLsb'_toNat, Response.encode_toNat h1 h0,
    Nat.shiftRight_eq_div_pow]
  rw [Word.fits_iff] at h1 h0
  cases w <;> simp only [Width.bits] at h1 h0 ⊢ <;> omega

theorem Response.ofWord_encode : Response.ofWord w (r.encode w) = r :=
  (Response.mk.injEq ..).mpr
    ⟨Response.ofWord_encode_st h1 h0, Response.ofWord_encode_r1 h1 h0, Response.ofWord_encode_r0 h1 h0⟩

end

/-! ### Literals and lines of the assembler (30_encoding R61 to R64) -/

theorem literalWord_of_lt {w : Width} {n : Nat} (h : n < 2 ^ w.bits) :
    literalWord w n = some (BitVec.ofNat 64 n) :=
  if_pos h

theorem literalWord_of_not_lt {w : Width} {n : Nat} (h : ¬ n < 2 ^ w.bits) : literalWord w n = none :=
  if_neg h

/-- The Word of a literal is the number written. -/
theorem literal_toNat {w : Width} {n : Nat} (h : n < 2 ^ w.bits) : (BitVec.ofNat 64 n).toNat = n := by
  rw [BitVec.toNat_ofNat]
  exact Nat.mod_eq_of_lt (h.trans_le (Width.pow_bits_le w))

theorem literalWords_of_forall_lt {w : Width} {ns : List Nat} (h : ∀ n ∈ ns, n < 2 ^ w.bits) :
    literalWords w ns = some (ns.map (BitVec.ofNat 64)) := by
  induction ns with
  | nil => rfl
  | cons n ns ih =>
    obtain ⟨hn, hns⟩ := List.forall_mem_cons.1 h
    simp [literalWords, literalWord_of_lt hn, ih hns]

theorem literalWords_of_exists_not_lt {w : Width} {ns : List Nat} (h : ∃ n ∈ ns, ¬ n < 2 ^ w.bits) :
    literalWords w ns = none := by
  induction ns with
  | nil => simp at h
  | cons n ns ih =>
    obtain hn | hns := (List.exists_mem_cons_iff ..).1 h
    · simp [literalWords, literalWord_of_not_lt hn]
    · simp [literalWords, ih hns]

/-- A command of literals packs the numbers written. -/
theorem packCommand_literals {w : Width} {x y : Nat} (hx : x < 2 ^ w.bits) (hy : y < 2 ^ w.bits) (op : Nat) :
    packCommand w op (BitVec.ofNat 64 x) (BitVec.ofNat 64 y) =
      BitVec.ofNat 131 (y * 2 ^ (w.bits + 3) + x * 2 ^ 3 + op) := by
  rw [packCommand, literal_toNat hx, literal_toNat hy]

theorem packCommand_literal {w : Width} {x : Nat} (hx : x < 2 ^ w.bits) (op : Nat) :
    packCommand w op (BitVec.ofNat 64 x) 0 = BitVec.ofNat 131 (x * 2 ^ 3 + op) := by
  have hzero : (0 : Word).toNat = 0 := rfl
  rw [packCommand, literal_toNat hx, hzero, Nat.zero_mul, Nat.zero_add]

theorem assembleWords_of_some {w : Width} {line : AsmLine} {is : List Instr} (h : assemble w line = some is) :
    assembleWords w line = some (is.map (encode w)) := by
  rw [assembleWords, h, Option.map_some]

theorem assembleWords_of_none {w : Width} {line : AsmLine} (h : assemble w line = none) :
    assembleWords w line = none := by
  rw [assembleWords, h, Option.map_none]

section
variable {w : Width} {line : AsmLine} {x y : Nat}

/-- A line of two operands is the one word of its command. -/
theorem assembleWords_two {f : Word → Word → Instr} {op : Nat} (hline : assemble w line = assembleTwo w f x y)
    (hf : ∀ a b, encode w (f a b) = packCommand w op a b) (hx : x < 2 ^ w.bits) (hy : y < 2 ^ w.bits) :
    assembleWords w line = some [BitVec.ofNat 131 (y * 2 ^ (w.bits + 3) + x * 2 ^ 3 + op)] := by
  rw [assembleTwo, literalWord_of_lt hx, literalWord_of_lt hy] at hline
  rw [assembleWords_of_some hline, List.map_singleton, hf, packCommand_literals hx hy]

theorem assembleWords_two_of_left_not_lt {f : Word → Word → Instr}
    (hline : assemble w line = assembleTwo w f x y) (hx : ¬ x < 2 ^ w.bits) : assembleWords w line = none :=
  assembleWords_of_none (by simp [hline, assembleTwo, literalWord_of_not_lt hx])

theorem assembleWords_two_of_right_not_lt {f : Word → Word → Instr}
    (hline : assemble w line = assembleTwo w f x y) (hy : ¬ y < 2 ^ w.bits) : assembleWords w line = none :=
  assembleWords_of_none (by simp [hline, assembleTwo, literalWord_of_not_lt hy])

/-- A line of one operand is the one word of its command, its field B zero. -/
theorem assembleWords_one {f : Word → Instr} {op : Nat}
    (hline : assemble w line = (literalWord w x).map fun v => [f v])
    (hf : ∀ a, encode w (f a) = packCommand w op a 0) (hx : x < 2 ^ w.bits) :
    assembleWords w line = some [BitVec.ofNat 131 (x * 2 ^ 3 + op)] := by
  rw [literalWord_of_lt hx, Option.map_some] at hline
  rw [assembleWords_of_some hline, List.map_singleton, hf, packCommand_literal hx]

theorem assembleWords_one_of_not_lt {f : Word → Instr}
    (hline : assemble w line = (literalWord w x).map fun v => [f v]) (hx : ¬ x < 2 ^ w.bits) :
    assembleWords w line = none :=
  assembleWords_of_none (by rw [hline, literalWord_of_not_lt hx, Option.map_none])

end

theorem assembleWords_current (w : Width) : assembleWords w .current = some [3] := by cases w <;> rfl

/-- ABSORBALL is the words of its ABSORBs, in order (30_encoding R62). -/
theorem assembleWords_absorbAll {w : Width} {ns : List Nat} (h : ∀ n ∈ ns, n < 2 ^ w.bits) :
    assembleWords w (.absorbAll ns) = some (ns.map fun n => BitVec.ofNat 131 (n * 2 ^ 3 + 2)) := by
  have hline : assemble w (.absorbAll ns) = some ((ns.map (BitVec.ofNat 64)).map .absorb) := by
    rw [assemble, literalWords_of_forall_lt h, Option.map_some]
  rw [assembleWords_of_some hline, List.map_map, List.map_map]
  exact congrArg some (List.map_congr_left fun n hn => packCommand_literal (h n hn) 2)

theorem assembleWords_absorbAll_of_exists_not_lt {w : Width} {ns : List Nat} (h : ∃ n ∈ ns, ¬ n < 2 ^ w.bits) :
    assembleWords w (.absorbAll ns) = none :=
  assembleWords_of_none (by rw [assemble, literalWords_of_exists_not_lt h, Option.map_none])

/-! ### The statements of 30_encoding -/

/-- Settles O4: the packed fields read back, and the opcode selects the command's constructor. -/
theorem decodeInvertsEncode : Obligations.DecodeInvertsEncode :=
  fun _ _ => decode_encode

/-- Settles O5: the decoder tests the number of bits alone, and fields of W bits are Words. -/
theorem everyCommandWordDecodes : Obligations.EveryCommandWordDecodes := by
  intro w cmd
  rw [← CmdWord.fits_iff]
  exact ⟨fun h => ⟨_, decode_of_fits h, decode_wf (decode_of_fits h)⟩, decode_of_not_fits⟩

/-- Settles O6: A, B and OP are the fields the decoder reads. -/
theorem decoderReadsThreeFields : Obligations.DecoderReadsThreeFields := by
  intro w cmd hcmd
  have h : cmd.fits w = true := (CmdWord.fits_iff w cmd).2 hcmd
  refine ⟨fieldA w cmd, fieldB w cmd, (fieldOp cmd).toNat, (Word.fits_iff w _).1 (fieldA_fits w cmd),
    (Word.fits_iff w _).1 (fieldB_fits w cmd), fieldOp_lt cmd, CmdWord.toNat_eq_fields h, ?_⟩
  rw [decode_of_fits h, instrOfFields_eq_ite]

/-- Settles O7: both words decode to one command, which is all the step sees of them. -/
theorem ignoredFieldsHaveNoEffect : Obligations.IgnoredFieldsHaveNoEffect := by
  intro s cmd cmd' h h' hop hfields
  rw [step_offer_of_fits s h, step_offer_of_fits s h', ← hop, instrOfFields_ignores _ _ hfields]

/-- Settles O46: a literal below 2^W is the Word written and any other has none, so a line packs its literals or is an
error. -/
theorem assemblerExpandsPseudoInstructions : Obligations.AssemblerExpandsPseudoInstructions := by
  intro w
  refine ⟨fun x y hx hy => ?_, fun _ => assembleWords_absorbAll, fun _ => assembleWords_absorbAll_of_exists_not_lt,
    rfl, fun _ => rfl, rfl, fun x y hx => ?_⟩
  · exact ⟨assembleWords_two rfl (fun _ _ => rfl) hx hy, assembleWords_two rfl (fun _ _ => rfl) hx hy,
      assembleWords_one rfl (fun _ => rfl) hx, assembleWords_current w,
      assembleWords_one rfl (fun _ => rfl) hx, assembleWords_two rfl (fun _ _ => rfl) hx hy⟩
  · exact ⟨assembleWords_two_of_left_not_lt rfl hx, assembleWords_two_of_right_not_lt rfl hx,
      assembleWords_two_of_left_not_lt rfl hx, assembleWords_two_of_right_not_lt rfl hx,
      assembleWords_one_of_not_lt rfl hx, assembleWords_one_of_not_lt rfl hx,
      assembleWords_two_of_left_not_lt rfl hx, assembleWords_two_of_right_not_lt rfl hx⟩

/-- Settles O8: the decoder evaluated on the eight words. -/
theorem workedEncodingsDecode : Obligations.WorkedEncodingsDecode := by
  unfold Obligations.WorkedEncodingsDecode
  decide

/-- Settles O9: the packed response loses no bit, so its fields read back. -/
theorem responseWordHoldsThreeFields : Obligations.ResponseWordHoldsThreeFields := by
  intro w r hr1 hr0
  have h1 : r.r1.fits w = true := (Word.fits_iff w _).2 hr1
  have h0 : r.r0.fits w = true := (Word.fits_iff w _).2 hr0
  refine ⟨?_, (RspWord.fits_iff w _).1 (Response.encode_fits_of_words h1 h0), Response.ofWord_encode h1 h0⟩
  rw [Response.encode_toNat h1 h0]
  cases r.st <;> rfl

/-- Settles O12: the step is the delivery of the oldest response, if there is one. -/
theorem hostTakesOldestResponse : Obligations.HostTakesOldestResponse := by
  intro s rest hin
  exact ⟨fun _ _ => step_takeResponse_of_cons hin, step_takeResponse_of_empty hin⟩

/-- Settles O23: both opcodes raise IllegalCommand, and a word with OP 6 or 7 decodes to its reserved command. -/
theorem reservedOpcodeIsIllegal : Obligations.ReservedOpcodeIsIllegal := by
  refine ⟨fun s => ⟨exec_reserved6 s, exec_reserved7 s⟩, fun s cmd rest hin hreset hcmd hop => ?_⟩
  have hdec := decode_of_fits ((CmdWord.fits_iff s.cfg.width cmd).2 hcmd)
  rw [← fieldOp_toNat] at hop
  obtain hop | hop := hop
  · rw [instrOfFields_of_six hop] at hdec
    exact (stepRunsAcceptedCommand s cmd rest _ hin hreset hdec).trans (exec_reserved6 _)
  · rw [instrOfFields_of_seven hop] at hdec
    exact (stepRunsAcceptedCommand s cmd rest _ hin hreset hdec).trans (exec_reserved7 _)

end Sys2Proof.Machine

namespace Sys2Proof.Machine

/-! ### The product of two numbers, cut at a power of two

`n` stands for 2^W and `q` for 2^(W/2). -/

/-- The greatest Word times `m` is `n * m - m`, whose high part is one less than `m` (40_widening_multiplier R74). -/
theorem pred_mul_div_eq_pred {n m : Nat} (hm : m ≤ n) : (n - 1) * m / n = m - 1 := by
  cases m with
  | zero => simp
  | succ k =>
    have hprod : (n - 1) * (k + 1) = n * (k + 1) - (k + 1) := Nat.sub_one_mul n (k + 1)
    have hlt : k < n * (k + 1) := Nat.le_mul_of_pos_left (k + 1) (Nat.zero_lt_of_lt hm)
    rw [hprod, Nat.mul_sub_div k n (k + 1) hlt, Nat.div_eq_of_lt hm]

/-- The product with a smaller Word has no greater high part. -/
theorem mul_div_le_pred {a n m : Nat} (ha : a < n) (hm : m ≤ n) : a * m / n ≤ m - 1 :=
  calc a * m / n
    _ ≤ (n - 1) * m / n := Nat.div_le_div_right (Nat.mul_le_mul_right m (Nat.le_pred_of_lt ha))
    _ = m - 1 := pred_mul_div_eq_pred hm

theorem halves_lt {q x y : Nat} (hx : x < q) (hy : y < q) : x * q + y < q * q :=
  calc x * q + y
    _ < x * q + q := Nat.add_lt_add_left hy _
    _ = (x + 1) * q := (Nat.succ_mul x q).symm
    _ ≤ q * q := Nat.mul_le_mul_right q hx

theorem two_mul_pred_mul_pred {q : Nat} (hq : 2 ≤ q) :
    (q - 1) * (q - 1) + (q - 1) * (q - 1) = 2 * (q * q) - 4 * q + 2 := by
  obtain ⟨r, rfl⟩ := Nat.exists_eq_add_of_le hq
  have hfour : 2 * ((2 + r) * (2 + r)) = 4 * (2 + r) + (2 * (r * r) + 4 * r) := by ring
  rw [hfour, Nat.add_sub_cancel_left, show 2 + r - 1 = r + 1 by omega]
  ring

/-! ### The laws of the widening multiply (40_widening_multiplier R72) -/

theorem wmul_comm (w : Width) (a b : Word) : wmul w a b = wmul w b a := by
  rw [wmul, wmul, Nat.mul_comm]

/-- A small product is the low half. -/
theorem wmul_of_mul_lt {w : Width} {a b : Word} (h : a.toNat * b.toNat < 2 ^ w.bits) :
    wmul w a b = (0, BitVec.ofNat 64 (a.toNat * b.toNat)) := by
  rw [wmul, Nat.div_eq_of_lt h, Nat.mod_eq_of_lt h]
  rfl

theorem wmul_zero_left (w : Width) (b : Word) : wmul w 0 b = (0, 0) := by simp [wmul]

theorem wmul_zero_right (w : Width) (a : Word) : wmul w a 0 = (0, 0) :=
  (wmul_comm w a 0).trans (wmul_zero_left w a)

theorem wmul_one_left {w : Width} {b : Word} (hb : b.fits w = true) : wmul w 1 b = (0, b) := by
  have hprod : (1 : Word).toNat * b.toNat = b.toNat := Nat.one_mul _
  rw [Word.fits_iff, ← hprod] at hb
  rw [wmul_of_mul_lt hb, hprod, BitVec.ofNat_toNat, BitVec.setWidth_eq]

section
variable {w : Width} {a b : Word} (ha : a.fits w = true) (hb : b.fits w = true)
include ha hb

/-- The two halves make up the exact product (40_widening_multiplier R70). -/
theorem wmul_reconstruct : (wmul w a b).1.toNat * 2 ^ w.bits + (wmul w a b).2.toNat = a.toNat * b.toNat := by
  rw [wmul_high_toNat ha hb, wmul_low_toNat]
  exact Nat.div_add_mod' _ _

theorem wmul_high_le_pred : (wmul w a b).1.toNat ≤ b.toNat - 1 := by
  rw [wmul_high_toNat ha hb]
  rw [Word.fits_iff] at ha hb
  exact mul_div_le_pred ha hb.le

/-- The bound on the high half is reached at `a` all ones. -/
theorem wmul_high_of_all_ones (hones : a.toNat = 2 ^ w.bits - 1) : (wmul w a b).1.toNat = b.toNat - 1 := by
  rw [wmul_high_toNat ha hb, hones]
  exact pred_mul_div_eq_pred ((Word.fits_iff w b).1 hb).le

theorem wmul_high_le : (wmul w a b).1.toNat ≤ 2 ^ w.bits - 2 := by
  have hle := wmul_high_le_pred ha hb
  rw [Word.fits_iff] at hb
  omega

/-- The high half is at most one less than either operand, so its greatest value needs both all ones. -/
theorem wmul_high_eq_max_iff :
    (wmul w a b).1.toNat = 2 ^ w.bits - 2 ↔ a.toNat = 2 ^ w.bits - 1 ∧ b.toNat = 2 ^ w.bits - 1 := by
  constructor
  · intro hmax
    have hleb := wmul_high_le_pred ha hb
    have hlea := wmul_high_le_pred hb ha
    rw [wmul_comm] at hlea
    have hbits : 2 < 2 ^ w.bits := by cases w <;> decide
    rw [Word.fits_iff] at ha hb
    omega
  · rintro ⟨honesa, honesb⟩
    rw [wmul_high_of_all_ones ha hb honesa, honesb]
    rfl

theorem wmul_low_of_all_ones (honesa : a.toNat = 2 ^ w.bits - 1) (honesb : b.toNat = 2 ^ w.bits - 1) :
    (wmul w a b).2.toNat = 1 := by
  have hprod := wmul_reconstruct ha hb
  rw [(wmul_high_eq_max_iff ha hb).2 ⟨honesa, honesb⟩, honesa, honesb] at hprod
  cases w <;> simp only [Width.bits] at hprod <;> omega

end

/-! ### The statements of 40_widening_multiplier -/

/-- Settles O30: WMUL reads the width alone and HASH the parameters, so states of one build get one response. -/
theorem pureUnitsIgnoreState : Obligations.PureUnitsIgnoreState := by
  rintro i s s' hcfg ⟨a, b, rfl | rfl⟩
  · refine ⟨_, exec_wmul a b s, ?_⟩
    rw [hcfg]
    exact exec_wmul a b s'
  · cases hb : validM s.cfg b with
    | true =>
      refine ⟨_, exec_hash_of_valid hb a, ?_⟩
      rw [hcfg] at hb ⊢
      exact exec_hash_of_valid hb a
    | false => exact ⟨_, exec_hash_of_invalid hb a, exec_hash_of_invalid (hcfg ▸ hb) a⟩

/-- Settles O32: the halves are the quotient and the remainder of the product by 2^W. -/
theorem wideningMultiplyIsExact : Obligations.WideningMultiplyIsExact := by
  intro w a b ha hb
  rw [← Word.fits_iff] at ha hb
  exact ⟨wmul_reconstruct ha hb, wmul_high_toNat ha hb, wmul_low_toNat w a b,
    (Word.fits_iff w _).1 (wmul_high_fits ha hb), (Word.fits_iff w _).1 (wmul_low_fits w a b)⟩

/-- Settles O33: the laws one by one. -/
theorem wideningMultiplyLaws : Obligations.WideningMultiplyLaws := by
  intro w a b ha hb
  rw [← Word.fits_iff] at ha hb
  refine ⟨wmul_reconstruct ha hb, wmul_comm w a b, wmul_zero_left w b, wmul_zero_right w a, wmul_one_left hb,
    wmul_high_le ha hb, wmul_high_eq_max_iff ha hb, wmul_low_of_all_ones ha hb, fun hsmall => ⟨?_, ?_⟩,
    wmul_low_toNat w a b⟩
  · rw [wmul_of_mul_lt hsmall]
  · rw [wmul_low_toNat, Nat.mod_eq_of_lt hsmall]

/-- Settles O34: the product of the two sums multiplied out; the middle sum is greatest for halves all ones. -/
theorem partialProductsMakeProduct : Obligations.PartialProductsMakeProduct := by
  intro w h hh aH aL bH bL haH haL hbH hbL a b ha hb
  have hW : 2 ^ w.bits = 2 ^ h * 2 ^ h := by rw [← hh, Nat.two_mul, pow_add]
  have hmax : (2 ^ h - 1) * (2 ^ h - 1) + (2 ^ h - 1) * (2 ^ h - 1) = 2 ^ (w.bits + 1) - 2 ^ (h + 2) + 2 := by
    have hpos : h ≠ 0 := by cases w <;> simp only [Width.bits] at hh <;> omega
    have hmid : 2 ^ (w.bits + 1) = 2 * (2 ^ h * 2 ^ h) := by rw [pow_succ', hW]
    have hcross : 2 ^ (h + 2) = 4 * 2 ^ h := pow_add 2 h 2 ▸ Nat.mul_comm _ _
    rw [hmid, hcross, two_mul_pred_mul_pred (Nat.le_self_pow hpos 2)]
  refine ⟨?_, ?_, ?_⟩
  · have hfa : a.fits w = true := by rw [Word.fits_iff, ha, hW]; exact halves_lt haH haL
    have hfb : b.fits w = true := by rw [Word.fits_iff, hb, hW]; exact halves_lt hbH hbL
    rw [wmul_reconstruct hfa hfb, ha, hb, hW]
    ring
  · rw [← hmax]
    exact Nat.add_le_add (Nat.mul_le_mul (Nat.le_pred_of_lt haH) (Nat.le_pred_of_lt hbL))
      (Nat.mul_le_mul (Nat.le_pred_of_lt haL) (Nat.le_pred_of_lt hbH))
  · rintro rfl rfl rfl rfl
    exact hmax

/-- Settles O35: `a * (2^p - 1)` is `a * 2^p - a`, and the high half is at most one less than the operand `2^p - 1`. -/
theorem shiftSubtractMakesProduct : Obligations.ShiftSubtractMakesProduct := by
  intro w a b p ha hmin hmax hb
  have hfa : a.fits w = true := (Word.fits_iff w a).2 ha
  have hfb : b.fits w = true := by
    rw [Word.fits_iff, hb]
    exact (Nat.sub_one_lt (by positivity)).trans_le (Nat.pow_le_pow_right two_pos (hmax.trans (Nat.sub_le _ _)))
  have hprod : a.toNat * b.toNat = a.toNat * 2 ^ p - a.toNat := by rw [hb, Nat.mul_sub_one]
  have hle := wmul_high_le_pred hfa hfb
  have hpow : 2 ≤ 2 ^ p := Nat.le_self_pow (Nat.one_le_iff_ne_zero.1 hmin) 2
  refine ⟨?_, ?_, ?_, ?_, fun hones => ?_⟩
  · rw [wmul_reconstruct hfa hfb, hprod, Nat.shiftLeft_eq]
  · rw [wmul_high_toNat hfa hfb, hprod]
  · omega
  · omega
  · rw [wmul_high_of_all_ones hfa hfb hones, hb]
    rfl

/-- Settles O36: the invariant makes `x = ACC XOR word` and M Words, and the new ACC is the high half of their
product. -/
theorem absorbCornerCases : Obligations.AbsorbCornerCases := by
  intro word s h hs hh hword
  obtain ⟨hacc, hm, -⟩ := (Hasher.wf_iff _ _).1 (hs.hasher_wf h hh)
  have hx : (h.acc ^^^ word).fits s.cfg.width = true := Word.xor_fits hacc ((Word.fits_iff _ _).2 hword)
  refine ⟨_, _, exec_absorb_of_some hh word, rfl, wmul_high_le_pred hx hm, ?_,
    fun hsmall => congrArg Prod.fst (wmul_of_mul_lt hsmall), wmul_high_of_all_ones hx hm⟩
  · rintro rfl
    rw [absorbStep, BitVec.xor_self]
    exact congrArg Prod.fst (wmul_zero_left _ _)

/-- Settles O16: the halves written out are those of `wmul`. -/
theorem wmulAnswersProduct : Obligations.WmulAnswersProduct :=
  exec_wmul

/-- Settles O19: the accumulator is written with `absorbStep`, the high half of the product. -/
theorem absorbUpdatesAccumulator : Obligations.AbsorbUpdatesAccumulator :=
  fun word _ _ hs => exec_absorb_of_some hs word

end Sys2Proof.Machine

namespace Sys2Proof.Machine

/-! ### Lists of commands -/

theorem runCommands_append_of_next {cs : List Instr} {s t : State} (h : runCommands cs s = .next t)
    (ds : List Instr) : runCommands (cs ++ ds) s = runCommands ds t := by
  induction cs generalizing s with
  | nil => cases h; rfl
  | cons i is ih =>
    cases hexec : exec i s with
    | next u =>
      rw [runCommands_of_next hexec] at h
      exact (runCommands_of_next hexec).trans (ih h)
    | fault r => cases r
    | refused r => simp [runCommands, hexec] at h

/-- One command answered, then the rest of the list from the state it leaves. -/
theorem runCommands_cons_of_answer {i : Instr} {is : List Instr} {s : State} {h h' : Option Hasher} {r : Response}
    {rs : List Response} (hexec : exec i s = .next (s.answer h [r]))
    (hrest : runCommands is (s.answer h [r]) = .next ((s.answer h [r]).answer h' rs)) :
    runCommands (i :: is) s = .next (s.answer h' (r :: rs)) := by
  rw [runCommands_of_next hexec, hrest, State.answer_answer, List.singleton_append]

/-! ### The hash of a sequence of Words (41_stateful_hasher R86) -/

theorem absorbSeq_append (w : Width) (acc m : Word) (u v : List Word) :
    absorbSeq w acc m (u ++ v) = absorbSeq w (absorbSeq w acc m u) m v := by
  induction u generalizing acc with
  | nil => rfl
  | cons x xs ih => exact ih _

/-- ABSORBs of Words fold them into the accumulator. -/
theorem runCommands_absorbs {s : State} {h : Hasher} (hs : s.hasher = some h) (ws : List Word) :
    runCommands (ws.map .absorb) s = .next (s.answer
      (some ⟨absorbSeq s.cfg.width h.acc h.mreg ws, h.mreg⟩) (List.replicate ws.length ⟨.ok, 0, 0⟩)) := by
  induction ws generalizing s h with
  | nil => simp [absorbSeq, ← hs]
  | cons x xs ih =>
    have hrest := ih (s := (s.writeAcc h (absorbStep s.cfg.width h.acc h.mreg x)).respond .ok 0 0) rfl
    exact runCommands_cons_of_answer (exec_absorb_of_some hs x) hrest

/-! ### Silent commands (41_stateful_hasher R87, R91) -/

/-- A silent command leaves the hasher, and its response is determined by the parameters and the hasher. -/
theorem exec_of_silent {i : Instr} {c : Config} (hi : silent c i = true) (k : Option Hasher) :
    ∃ r : Response, ∀ s : State, s.cfg = c → s.hasher = k → exec i s = .next (s.answer k [r]) := by
  obtain ⟨h, r, hexec⟩ := exec_determined_by_hasher i c k
  refine ⟨r, fun s hc hk => ?_⟩
  obtain ⟨t, ht, hcases⟩ := exec_hasher_cases i s
  have hanswer := hexec s hc hk
  cases ht.symm.trans hanswer
  obtain hsame | ⟨seed, m, rfl, hvalid, -⟩ | ⟨_, v, ⟨word, rfl, -⟩ | rfl, -⟩ := hcases
  · have hkept : h = k := hsame.trans hk
    rwa [hkept] at hanswer
  · simp [silent, ← hc, hvalid] at hi
  · cases hi
  · cases hi

theorem runCommands_of_silent {s : State} {cs : List Instr} (hcs : ∀ i ∈ cs, silent s.cfg i = true) :
    ∃ rs : List Response, rs.length = cs.length ∧ runCommands cs s = .next (s.answer s.hasher rs) := by
  induction cs generalizing s with
  | nil => exact ⟨[], rfl, by simp⟩
  | cons i is ih =>
    obtain ⟨hi, his⟩ := List.forall_mem_cons.1 hcs
    obtain ⟨r, hexec⟩ := exec_of_silent hi s.hasher
    obtain ⟨rs, hlen, hrun⟩ := ih (s := s.answer s.hasher [r]) his
    exact ⟨r :: rs, congrArg (· + 1) hlen, runCommands_cons_of_answer (hexec s rfl rfl) hrun⟩

/-- A CURRENT after silent commands answers the accumulator that stood before them. -/
theorem runCommands_silent_current {s : State} {h : Hasher} (hs : s.hasher = some h) {cs : List Instr}
    (hcs : ∀ i ∈ cs, silent s.cfg i = true) :
    ∃ rs : List Response, rs.length = cs.length ∧
      runCommands (cs ++ [.current]) s = .next (s.answer s.hasher (rs ++ [⟨.ok, 0, h.acc⟩])) := by
  obtain ⟨rs, hlen, hrun⟩ := runCommands_of_silent hcs
  refine ⟨rs, hlen, ?_⟩
  have hcurrent := exec_current_of_some (s := s.answer s.hasher rs) hs
  rw [runCommands_append_of_next hrun, runCommands_of_next hcurrent, runCommands_nil, ← State.answer_answer]
  rfl

/-- A run of commands, those marked `true` silent, and the run without the marked ones leave one hasher and give the
others the same responses. -/
theorem runCommands_without_silent (c : Config) (cs : List (Bool × Instr))
    (hcs : ∀ x ∈ cs, x.1 = true → silent c x.2 = true) (k : Option Hasher) :
    ∃ (h : Option Hasher) (rs : List Response), rs.length = cs.length ∧ ∀ s : State, s.cfg = c → s.hasher = k →
      runCommands (cs.map (·.2)) s = .next (s.answer h rs) ∧
      runCommands ((cs.filter fun x => !x.1).map (·.2)) s =
        .next (s.answer h (((cs.zip rs).filter fun x => !x.1.1).map (·.2))) := by
  induction cs generalizing k with
  | nil => exact ⟨k, [], rfl, by rintro s - rfl; simp⟩
  | cons x xs ih =>
    obtain ⟨hx, hxs⟩ := List.forall_mem_cons.1 hcs
    obtain ⟨marked, i⟩ := x
    cases marked with
    | true =>
      obtain ⟨r, hexec⟩ := exec_of_silent (hx rfl) k
      obtain ⟨h, rs, hlen, hrun⟩ := ih hxs k
      refine ⟨h, r :: rs, congrArg (· + 1) hlen, fun s hc hk => ?_⟩
      exact ⟨runCommands_cons_of_answer (hexec s hc hk) (hrun (s.answer k [r]) hc rfl).1, (hrun s hc hk).2⟩
    | false =>
      obtain ⟨k', r, hexec⟩ := exec_determined_by_hasher i c k
      obtain ⟨h, rs, hlen, hrun⟩ := ih hxs k'
      refine ⟨h, r :: rs, congrArg (· + 1) hlen, fun s hc hk => ?_⟩
      obtain ⟨hall, hothers⟩ := hrun (s.answer k' [r]) hc rfl
      exact ⟨runCommands_cons_of_answer (hexec s hc hk) hall, runCommands_cons_of_answer (hexec s hc hk) hothers⟩

/-! ### The statements of 41_stateful_hasher -/

/-- Settles O38: the new hasher starts the fold at the seed, and CURRENT reads where the ABSORBs left it. -/
theorem sequenceHashIsAbsorbSeq : Obligations.SequenceHashIsAbsorbSeq := by
  refine ⟨fun _ _ _ => rfl, fun _ _ _ _ _ => rfl, absorbSeq_append, fun s seed m ws p hmin hmax hm => ?_⟩
  have hconstruct := exec_construct_of_valid ((validM_iff s.cfg m).2 ⟨p, hmin, hmax, hm⟩) seed
  have habsorbs := runCommands_absorbs (s := (s.install seed m).respond .ok 0 0) rfl ws
  rw [runCommands_of_next hconstruct, runCommands_append_of_next habsorbs,
    runCommands_of_next (exec_current_of_some rfl), runCommands_nil]
  simp [State.answer, State.respond, State.install, List.replicate_succ]

/-- Settles O39: the first command puts the seed in the accumulator, and the silent ones leave it there. -/
theorem emptySequenceHashesToSeed : Obligations.EmptySequenceHashesToSeed := by
  refine ⟨fun _ _ _ => rfl, fun s seed m between hm hbetween => ?_, fun s seed between hvalid hbetween => ?_⟩
  · obtain ⟨rs, hlen, hrun⟩ :=
      runCommands_silent_current (s := (s.install seed m).respond .ok 0 0) rfl hbetween
    exact ⟨_, rs, hlen, (runCommands_of_next (exec_construct_of_valid hm seed)).trans hrun, by simp⟩
  · obtain ⟨h, hs⟩ := (State.valid_eq_true s).1 hvalid
    obtain ⟨rs, hlen, hrun⟩ :=
      runCommands_silent_current (s := (s.writeAcc h seed).respond .ok 0 0) rfl hbetween
    exact ⟨_, rs, hlen, (runCommands_of_next (exec_reset_of_some hs seed)).trans hrun, by simp⟩

/-- Settles O40: RESET and CONSTRUCT leave one hasher, from which the ABSORBs fold the same Words. -/
theorem resetReplaysLikeConstruct : Obligations.ResetReplaysLikeConstruct := by
  intro s s' h seed ws hcfg hs hvalid
  have hreset := runCommands_of_next (rest := ws.map .absorb) (exec_reset_of_some hs seed)
  have hconstruct := runCommands_of_next (rest := ws.map .absorb) (exec_construct_of_valid (hcfg ▸ hvalid) seed)
  refine ⟨_, _, hreset.trans (runCommands_absorbs rfl ws), hconstruct.trans (runCommands_absorbs rfl ws), rfl, ?_⟩
  simp [State.answer, hcfg]

/-- Settles O42: both runs start from one hasher. -/
theorem peekingDoesNotPerturb : Obligations.PeekingDoesNotPerturb := by
  intro s cs hcs
  obtain ⟨h, rs, hlen, hrun⟩ := runCommands_without_silent s.cfg cs hcs s.hasher
  obtain ⟨hall, hothers⟩ := hrun s rfl rfl
  exact ⟨_, _, rs, hlen, hall, hothers, rfl, rfl, rfl⟩

/-- Settles O18: the constant fails the check, so both commands raise InvalidConstant. -/
theorem invalidConstantChangesNothing : Obligations.InvalidConstantChangesNothing := by
  intro x m s hno
  have hm : validM s.cfg m = false := (validM_eq_false_iff s.cfg m).2 hno
  exact ⟨exec_construct_of_invalid hm x, exec_hash_of_invalid hm x⟩

/-- Settles O20: CURRENT reads the accumulator of the hasher there is. -/
theorem currentAnswersAccumulator : Obligations.CurrentAnswersAccumulator :=
  fun _ _ hs => exec_current_of_some hs

/-- Settles O21: RESET writes the accumulator of the hasher there is. -/
theorem resetLoadsSeed : Obligations.ResetLoadsSeed :=
  fun seed _ _ hs => exec_reset_of_some hs seed

/-- Settles O41: the fold evaluated on the pairs. -/
theorem orderOfWordsMatters : Obligations.OrderOfWordsMatters := by
  refine ⟨by decide, by decide, by decide, by decide, by decide, by decide, fun w => ?_⟩
  cases w <;> decide

end Sys2Proof.Machine

namespace Sys2Proof.Machine

/-! ### The two halves folded with XOR (42_stateless_hash R100) -/

theorem xor_two_pow_sub_one_sub {n k : Nat} (hk : k < 2 ^ n) : k ^^^ (2 ^ n - 1 - k) = 2 ^ n - 1 := by
  rw [Nat.sub_sub, Nat.add_comm]
  refine Nat.eq_of_testBit_eq fun i => ?_
  rw [Nat.testBit_xor, Nat.testBit_two_pow_sub_succ hk, Nat.testBit_two_pow_sub_one]
  by_cases hi : i < n
  · simp [hi]
  · have hle : 2 ^ n ≤ 2 ^ i := Nat.pow_le_pow_right two_pos (Nat.le_of_not_lt hi)
    simp [hi, Nat.testBit_lt_two_pow (hk.trans_le hle)]

/-- A constant whose exponent is in the domain of the parameters is a Word of the build. -/
theorem fits_of_run_of_ones {w : Width} {m : Word} {p : Nat} (hp : p ≤ w.bits) (hm : m.toNat = 2 ^ p - 1) :
    m.fits w = true := by
  rw [Word.fits_iff, hm]
  exact (Nat.sub_one_lt (by positivity)).trans_le (Nat.pow_le_pow_right two_pos hp)

section
variable {w : Width} {a b : Word} (ha : a.fits w = true) (hb : b.fits w = true)
include ha hb

/-- With `a` all ones and `b` not 0 the product is `(b - 1) * 2^W + (2^W - b)`: the low half is the complement of the
high half. -/
theorem wmul_low_of_left_all_ones (hones : a.toNat = 2 ^ w.bits - 1) (hpos : 1 ≤ b.toNat) :
    (wmul w a b).2.toNat = 2 ^ w.bits - 1 - (wmul w a b).1.toNat := by
  have hprod := wmul_reconstruct ha hb
  rw [wmul_high_of_all_ones ha hb hones, hones] at hprod
  rw [wmul_high_of_all_ones ha hb hones]
  rw [Word.fits_iff] at hb
  cases w <;> simp only [Width.bits] at hprod hb ⊢ <;> omega

/-- All ones times anything but 0 folds to all ones. -/
theorem wmul_fold_of_left_all_ones (hones : a.toNat = 2 ^ w.bits - 1) (hpos : 1 ≤ b.toNat) :
    ((wmul w a b).1 ^^^ (wmul w a b).2).toNat = 2 ^ w.bits - 1 := by
  rw [BitVec.toNat_xor, wmul_low_of_left_all_ones ha hb hones hpos]
  exact xor_two_pow_sub_one_sub ((Word.fits_iff w _).1 (wmul_high_fits ha hb))

end

/-- A small product folds to itself. -/
theorem wmul_fold_of_mul_lt {w : Width} {a b : Word} (h : a.toNat * b.toNat < 2 ^ w.bits) :
    ((wmul w a b).1 ^^^ (wmul w a b).2).toNat = a.toNat * b.toNat := by
  have hhigh : (wmul w a b).1.toNat = 0 := by rw [wmul_of_mul_lt h]; rfl
  rw [BitVec.toNat_xor, hhigh, Nat.zero_xor, wmul_low_toNat, Nat.mod_eq_of_lt h]

/-- An ABSORB into the accumulator 0 leaves the high half of the Word's own product (41_stateful_hasher R82). -/
theorem absorbStep_zero (w : Width) (m word : Word) : absorbStep w 0 m word = (wmul w word m).1 := by
  simp [absorbStep]

/-! ### The statements of 42_stateless_hash -/

/-- Settles O43: ABSORB from the seed 0 leaves the high half of `w * M`, the first of the two halves HASH folds. -/
theorem hashIsAbsorbFoldedWithLow : Obligations.HashIsAbsorbFoldedWithLow := by
  intro word m s hm _
  have hconstruct := exec_construct_of_valid hm 0
  have habsorb := exec_absorb_of_some (s := (s.install 0 m).respond .ok 0 0) rfl word
  have hrun := (runCommands_of_next hconstruct).trans (runCommands_of_next (rest := []) habsorb)
  refine ⟨_, _, _, exec_hash_of_valid hm word, hrun, rfl, ?_⟩
  exact congrArg (· ^^^ (wmul s.cfg.width word m).2) (absorbStep_zero s.cfg.width m word).symm

/-- Settles O37: the product is 0, the word, below 2^W or that of a word of all ones, and its halves are folded. -/
theorem hashCornerCases : Obligations.HashCornerCases := by
  intro word m s p hwf hword hp hmin hmax hm
  have hpW : p ≤ s.cfg.width.bits := by
    simp only [Config.wf, Bool.and_eq_true, decide_eq_true_eq] at hwf
    exact hmax.trans hwf.2
  have hfw : word.fits s.cfg.width = true := (Word.fits_iff _ _).2 hword
  have hfm : m.fits s.cfg.width = true := fits_of_run_of_ones hpW hm
  have hpos : 1 ≤ m.toNat := Nat.one_le_iff_ne_zero.2 (hm ▸ (two_pow_sub_one_ne_zero_iff p).2 hp)
  refine ⟨_, exec_hash_of_valid ((validM_iff s.cfg m).2 ⟨p, hmin, hmax, hm⟩) word, ?_, ?_,
    wmul_fold_of_mul_lt, fun hones => wmul_fold_of_left_all_ones hfw hfm hones hpos⟩
  · rintro rfl
    rw [wmul_zero_left]
    rfl
  · rintro rfl
    rw [wmul_comm, wmul_one_left hfw]
    exact BitVec.zero_xor

end Sys2Proof.Machine

namespace Sys2Proof.Machine

/-! ### A step takes the host's next event -/

@[simp] theorem State.deliver_input (s : State) : s.deliver.input = s.input := by
  cases hport : s.rspPort with
  | nil => rw [State.deliver_of_empty s hport]
  | cons r rest => rw [State.deliver_of_cons s r rest hport]

@[simp] theorem State.releaseReset_input (s : State) : s.releaseReset.input = s.input := by
  cases hreset : s.inReset with
  | true => rw [State.releaseReset_of_inReset s hreset]; rfl
  | false => rw [State.releaseReset_of_released s hreset]

@[simp] theorem hostAct_input (s : State) : (hostAct s).input = s.input.tail := by
  cases hin : s.input with
  | nil => simp [hostAct, hin]
  | cons e rest => cases e <;> simp [hostAct, hin]

theorem exec_input {i : Instr} {s t : State} (h : exec i s = .next t) : t.input = s.input := by
  obtain ⟨k, r1, r0, hexec, -⟩ := exec_eq_respond i s
  cases h.symm.trans hexec
  rfl

theorem step_input {s t : State} (h : step s = .next t) : t.input = s.input.tail := by
  obtain ⟨-, rfl⟩ | ⟨i, -, hexec⟩ := step_cases h
  · exact hostAct_input s
  · exact exec_input hexec

theorem step_of_fetch_none {s : State} (h : fetch s = none) : step s = .next (hostAct s) := by
  simp [step, h]

/-! ### A host that offers only CW-bit words (70_reset_and_hazards R137) -/

/-- Every command word a step accepts from such a host decodes (30_encoding R60). -/
theorem State.offersFit.fetch_ne_error {s : State} (hs : s.offersFit) (e : DecodeError) :
    fetch s ≠ some (.error e) := by
  unfold fetch
  split
  next cmd rest hin =>
    have hfits : cmd.fits s.cfg.width = true := hs cmd (hin ▸ List.mem_cons_self)
    cases s.inReset <;> simp [decode_of_fits hfits]
  next => simp

theorem State.offersFit.step_answers_next {s : State} (hs : s.offersFit) : ∃ t, step s = .next t := by
  cases hfetch : fetch s with
  | none => exact ⟨_, step_of_fetch_none hfetch⟩
  | some d =>
    cases d with
    | ok i =>
      obtain ⟨h, r, hexec⟩ := oneResponsePerCommand i s.dropEvent
      exact ⟨_, by simpa [step, hfetch] using hexec⟩
    | error e => exact absurd hfetch (hs.fetch_ne_error e)

/-- What is left to offer was to be offered before, at the same width. -/
theorem State.offersFit.of_step {s t : State} (hs : s.offersFit) (h : step s = .next t) : t.offersFit := by
  intro cmd hcmd
  rw [step_input h] at hcmd
  rw [parametersNeverChange s t h]
  exact hs cmd (List.mem_of_mem_tail hcmd)

/-! ### The statements of 60_exceptions -/

/-- Settles O14, by induction on the number of steps: the first one answers next, in a state whose offers still fit. -/
theorem runNeverStops : Obligations.RunNeverStops := by
  intro k s hs
  induction k generalizing s with
  | zero => exact ⟨s, core_run_zero s⟩
  | succ k ih =>
    obtain ⟨u, hstep⟩ := hs.step_answers_next
    obtain ⟨t, hrun⟩ := ih u (hs.of_step hstep)
    exact ⟨t, (core_run_of_next hstep).trans hrun⟩

/-- Settles O11: nothing is fetched, and the host's part of the step is at most to drop the idle event. -/
theorem idleStepHoldsState : Obligations.IdleStepHoldsState := by
  refine fun s => ⟨fun hin => ?_, fun rest hin => ?_⟩
  · have hfetch : fetch s = none := by simp [fetch, hin]
    rw [step_of_fetch_none hfetch, hostAct, hin]
  · have hfetch : fetch s = none := by simp [fetch, hin]
    rw [step_of_fetch_none hfetch, hostAct, hin, State.dropEvent, hin]
    rfl

end Sys2Proof.Machine

namespace Sys2Proof.Machine

/-! ### While hard reset is asserted (70_reset_and_hazards R130) -/

/-- `s` cleared and held in hard reset, with the host about to do `events`. -/
def State.heldInReset (s : State) (events : List HostEvent) : State :=
  { s.assertReset with input := events }

@[simp] theorem State.heldInReset_input (s : State) (events : List HostEvent) :
    (s.heldInReset events).input = events := rfl

@[simp] theorem State.heldInReset_inReset (s : State) (events : List HostEvent) :
    (s.heldInReset events).inReset = true := rfl

@[simp] theorem State.heldInReset_dropEvent (s : State) (e : HostEvent) (rest : List HostEvent) :
    (s.heldInReset (e :: rest)).dropEvent = s.heldInReset rest := rfl

/-- Asserting hard reset again changes no more (log 5). -/
@[simp] theorem State.heldInReset_assertReset (s : State) (events : List HostEvent) :
    (s.heldInReset events).assertReset = s.heldInReset events := rfl

/-- There is no response left to take. -/
@[simp] theorem State.heldInReset_deliver (s : State) (events : List HostEvent) :
    (s.heldInReset events).deliver = s.heldInReset events :=
  State.deliver_of_empty _ rfl

theorem fetch_of_inReset {s : State} (h : s.inReset = true) : fetch s = none := by
  unfold fetch
  split
  · exact if_pos h
  · rfl

theorem step_assertReset {s : State} {rest : List HostEvent} (hin : s.input = .assertReset :: rest) :
    step s = .next (s.heldInReset rest) := by
  have hfetch : fetch s = none := by simp [fetch, hin]
  rw [step_of_fetch_none hfetch, hostAct, hin, State.dropEvent, hin]
  rfl

/-- Only the release of hard reset ends it: no other event does more than lapse. -/
theorem step_heldInReset (s : State) {e : HostEvent} (rest : List HostEvent) (he : e ≠ .releaseReset) :
    step (s.heldInReset (e :: rest)) = .next (s.heldInReset rest) := by
  rw [step_of_fetch_none (fetch_of_inReset (s.heldInReset_inReset _))]
  cases e with
  | command cmd => simp [hostAct]
  | takeResponse => simp [hostAct]
  | assertReset => simp [hostAct]
  | releaseReset => exact absurd rfl he
  | idle => simp [hostAct]

theorem step_heldInReset_releaseReset (s : State) (rest : List HostEvent) :
    step (s.heldInReset (.releaseReset :: rest)) =
      .next { s with hasher := none, rspPort := [], inReset := false, input := rest } :=
  step_of_fetch_none (fetch_of_inReset (s.heldInReset_inReset _))

theorem core_run_heldInReset (s : State) (during rest : List HostEvent) (h : ∀ e ∈ during, e ≠ .releaseReset) :
    Sys2Proof.core.run during.length (s.heldInReset (during ++ rest)) = .next (s.heldInReset rest) := by
  induction during with
  | nil => exact core_run_zero _
  | cons e during ih =>
    obtain ⟨he, hduring⟩ := List.forall_mem_cons.1 h
    exact (core_run_of_next (step_heldInReset s (during ++ rest) he)).trans (ih hduring)

/-! ### The statement of 70_reset_and_hazards -/

/-- Settles O13: the first step clears the block, no event in between changes it, and the last step releases it. -/
theorem hardResetClearsTheBlock : Obligations.HardResetClearsTheBlock := by
  intro s during rest hduring hin
  have hassert := step_assertReset hin
  have hheld := core_run_heldInReset s during (.releaseReset :: rest) fun e he => (hduring e he).2
  have hrelease := step_heldInReset_releaseReset s rest
  calc Sys2Proof.core.run (during.length + 2) s
    _ = Sys2Proof.core.run (during.length + 1) (s.heldInReset (during ++ .releaseReset :: rest)) :=
      core_run_of_next hassert
    _ = Sys2Proof.core.run 1 (s.heldInReset (.releaseReset :: rest)) := core_run_add_of_next hheld
    _ = .next { s with hasher := none, rspPort := [], inReset := false, input := rest } :=
      (core_run_of_next hrelease).trans (core_run_zero _)

end Sys2Proof.Machine
